-- ==== Sys2Proof/Word.lean ====
section
/-! DEFINITION. The word types of the block (00_scope R7): samples, port values, command and payload bytes are 8 bits;
the divider is 24 bits; PERIOD, the capture index, the drain pointer and the gate countdown are 32 bits. -/

namespace Sys2Proof

/-- 8-bit samples, port values, command and payload bytes (00_scope R7). -/
abbrev Byte := BitVec 8

/-- The 24-bit host divider `x` (00_scope R7, 44_divider R180). -/
abbrev Divider := BitVec 24

/-- The 32-bit registers PERIOD, `idx`, `dptr` and `gcnt` (00_scope R7). -/
abbrev Word := BitVec 32

end Sys2Proof
end

