-- ==== Sys2Proof/Syntax.lean ====
section
/-! DEFINITION. The instructions: one constructor per row of spec/opcode_table.json (30_encoding R70 to R79). Nineteen
commands with a fixed first byte, UNRECOGNIZED for the other 237 byte values, and the five events without a byte
encoding. -/

namespace Sys2Proof

/-- The four payload bytes of a five-byte frame in the order they are sent (30_encoding R71). -/
structure Payload where
  p0 : Byte
  p1 : Byte
  p2 : Byte
  p3 : Byte
  deriving DecidableEq, Repr

/-- One constructor per row of spec/opcode_table.json. -/
inductive Instr where
  /-- RESET, frame `[0x00]` (40_command_front_end R102). -/
  | reset
  /-- ARM, frame `[0x01]` (40_command_front_end R103). -/
  | arm
  /-- QUERY, frame `[0x02]` (40_command_front_end R106). -/
  | query
  /-- GET_METADATA, frame `[0x04]` (40_command_front_end R107). -/
  | getMetadata
  /-- SET_DIVIDER, frame `[0x80, x[7:0], x[15:8], x[23:16], pad]` (40_command_front_end R104, R105). -/
  | setDivider (x : Divider) (pad : Byte)
  /-- LONG_0xC0, frame `[0xC0, p0, p1, p2, p3]`, payload discarded (40_command_front_end R109, R110). -/
  | longC0 (p : Payload)
  /-- LONG_0xC4, frame `[0xC4, p0, p1, p2, p3]`, payload discarded (40_command_front_end R109, R110). -/
  | longC4 (p : Payload)
  /-- LONG_0xC8, frame `[0xC8, p0, p1, p2, p3]`, payload discarded (40_command_front_end R109, R110). -/
  | longC8 (p : Payload)
  /-- LONG_0xCC, frame `[0xCC, p0, p1, p2, p3]`, payload discarded (40_command_front_end R109, R110). -/
  | longCC (p : Payload)
  /-- LONG_0xC1, frame `[0xC1, p0, p1, p2, p3]`, payload discarded (40_command_front_end R109, R110). -/
  | longC1 (p : Payload)
  /-- LONG_0xC5, frame `[0xC5, p0, p1, p2, p3]`, payload discarded (40_command_front_end R109, R110). -/
  | longC5 (p : Payload)
  /-- LONG_0xC9, frame `[0xC9, p0, p1, p2, p3]`, payload discarded (40_command_front_end R109, R110). -/
  | longC9 (p : Payload)
  /-- LONG_0xCD, frame `[0xCD, p0, p1, p2, p3]`, payload discarded (40_command_front_end R109, R110). -/
  | longCD (p : Payload)
  /-- LONG_0xC2, frame `[0xC2, p0, p1, p2, p3]`, payload discarded (40_command_front_end R109, R110). -/
  | longC2 (p : Payload)
  /-- LONG_0xC6, frame `[0xC6, p0, p1, p2, p3]`, payload discarded (40_command_front_end R109, R110). -/
  | longC6 (p : Payload)
  /-- LONG_0xCA, frame `[0xCA, p0, p1, p2, p3]`, payload discarded (40_command_front_end R109, R110). -/
  | longCA (p : Payload)
  /-- LONG_0xCE, frame `[0xCE, p0, p1, p2, p3]`, payload discarded (40_command_front_end R109, R110). -/
  | longCE (p : Payload)
  /-- LONG_0x81, frame `[0x81, p0, p1, p2, p3]`, payload discarded (40_command_front_end R109, R110). -/
  | long81 (p : Payload)
  /-- LONG_0x82, frame `[0x82, p0, p1, p2, p3]`, payload discarded (40_command_front_end R109, R110). -/
  | long82 (p : Payload)
  /-- UNRECOGNIZED, frame `[op]` for each of the 237 remaining values (40_command_front_end R111). -/
  | unrecognized (op : Byte)
  /-- GATE_STEP, event of the gate sequencer (41_trigger_gate R132). -/
  | gateStep
  /-- TICK, event of the Sample Timer (42_ring_controller R152, R155). -/
  | tick
  /-- DRAIN_STEP, event of the serial channel's transmit side (42_ring_controller R156). -/
  | drainStep
  /-- HOST_DONE, event of the Protocol Encoder (40_command_front_end R108). -/
  | hostDone
  /-- RST, device reset, event of the platform (70_reset_and_hazards R230). -/
  | rst
  deriving DecidableEq, Repr

end Sys2Proof
end

