-- ==== Sys2Proof/WellFormed.lean ====
section
/-! DEFINITION. Which terms of `Instr` stand for something the host or an agent can send. Every field value of every
constructor is legal (30_encoding R73, R74) but one: UNRECOGNIZED covers only the values no other row has (R72). -/

namespace Sys2Proof

/-- The 19 first bytes that 30_encoding R72 gives a class of their own. -/
def recognizedOps : List Byte :=
  [0x00, 0x01, 0x02, 0x04, 0x80] ++ [0x81, 0x82] ++
  [0xC0, 0xC1, 0xC2, 0xC4, 0xC5, 0xC6] ++ [0xC8, 0xC9, 0xCA, 0xCC, 0xCD, 0xCE]

/-- The well-formedness check: the `op` of UNRECOGNIZED is none of the recognized values (30_encoding R72). -/
def Instr.wellFormed : Instr → Bool
  | .reset => true
  | .arm => true
  | .query => true
  | .getMetadata => true
  | .setDivider _ _ => true
  | .longC0 _ => true
  | .longC4 _ => true
  | .longC8 _ => true
  | .longCC _ => true
  | .longC1 _ => true
  | .longC5 _ => true
  | .longC9 _ => true
  | .longCD _ => true
  | .longC2 _ => true
  | .longC6 _ => true
  | .longCA _ => true
  | .longCE _ => true
  | .long81 _ => true
  | .long82 _ => true
  | .unrecognized op => !(recognizedOps.contains op)
  | .gateStep => true
  | .tick => true
  | .drainStep => true
  | .hostDone => true
  | .rst => true

/-- Is the instruction a host frame (formats S and L of 30_encoding R71) and not an event (R79)? -/
def Instr.isFrame : Instr → Bool
  | .reset => true
  | .arm => true
  | .query => true
  | .getMetadata => true
  | .setDivider _ _ => true
  | .longC0 _ => true
  | .longC4 _ => true
  | .longC8 _ => true
  | .longCC _ => true
  | .longC1 _ => true
  | .longC5 _ => true
  | .longC9 _ => true
  | .longCD _ => true
  | .longC2 _ => true
  | .longC6 _ => true
  | .longCA _ => true
  | .longCE _ => true
  | .long81 _ => true
  | .long82 _ => true
  | .unrecognized _ => true
  | .gateStep => false
  | .tick => false
  | .drainStep => false
  | .hostDone => false
  | .rst => false

end Sys2Proof
end

