-- ==== Sys2Proof/Decode.lean ====
section
/-! DEFINITION. The opcode map of 30_encoding R72, the frame decoder and the encoder. A frame's first byte alone tells
its class and its length (R75); decoding is total on any bytes and every byte value has a meaning, so the only
rejections are a channel that holds no byte and a five-byte frame of which bytes are missing. -/

namespace Sys2Proof

/-- The classes of a command byte (30_encoding R72). -/
inductive OpClass where
  | reset
  | arm
  | query
  | getMetadata
  | setDivider
  | long
  | unrecognized
  deriving DecidableEq, Repr

/-- The fourteen LONG values in the source's order (30_encoding R72). -/
def longOps : List Byte :=
  [0xC0, 0xC4, 0xC8, 0xCC] ++ [0xC1, 0xC5, 0xC9, 0xCD] ++ [0xC2, 0xC6, 0xCA, 0xCE] ++ [0x81, 0x82]

/-- The class the front end gives a command byte: its full value decides (30_encoding R71, R72). -/
def classify (op : Byte) : OpClass :=
  if op = 0x00 then .reset
  else if op = 0x01 then .arm
  else if op = 0x02 then .query
  else if op = 0x04 then .getMetadata
  else if op = 0x80 then .setDivider
  else if op ∈ longOps then .long
  else .unrecognized

/-- The number of bytes of the frame a first byte begins: 5 for SET_DIVIDER and LONG, 1 for every other value
(30_encoding R75). -/
def frameLength (op : Byte) : Nat :=
  match classify op with
  | .setDivider | .long => 5
  | .reset | .arm | .query | .getMetadata | .unrecognized => 1

/-- The divider of a SET_DIVIDER payload: `x = p2 ++ p1 ++ p0`, least significant byte first (30_encoding R73). -/
def assembleDivider (p0 p1 p2 : Byte) : Divider := p2 ++ p1 ++ p0

/-- Byte `n` of a divider, byte 0 the least significant (30_encoding R73). -/
def dividerByte (x : Divider) (n : Nat) : Byte := x.extractLsb' (8 * n) 8

/-- The one-byte rows with a fixed value (opcode_table.json, format S). -/
def shortRows : List (Byte × Instr) :=
  [(0x00, .reset), (0x01, .arm), (0x02, .query), (0x04, .getMetadata)]

/-- The five-byte rows (opcode_table.json, format L), each with the instruction its payload makes. -/
def longRows : List (Byte × (Payload → Instr)) :=
  [(0x80, fun p => .setDivider (assembleDivider p.p0 p.p1 p.p2) p.p3),
   (0xC0, .longC0),
   (0xC4, .longC4),
   (0xC8, .longC8),
   (0xCC, .longCC),
   (0xC1, .longC1),
   (0xC5, .longC5),
   (0xC9, .longC9),
   (0xCD, .longCD),
   (0xC2, .longC2),
   (0xC6, .longC6),
   (0xCA, .longCA),
   (0xCE, .longCE),
   (0x81, .long81),
   (0x82, .long82)]

/-- Why no instruction can be read from a list of bytes. -/
inductive DecodeError where
  /-- The channel holds no byte. -/
  | noByte
  /-- The first byte begins a five-byte frame and fewer than four payload bytes follow (40_command_front_end R112). -/
  | missingPayload (op : Byte)
  deriving DecidableEq, Repr

/-- Read the frame at the head of the bytes and give the bytes after it (30_encoding R71 to R76). -/
def decode : List Byte → Except DecodeError (Instr × List Byte)
  | [] => .error .noByte
  | op :: rest =>
    match shortRows.lookup op, longRows.lookup op with
    | some i, _ => .ok (i, rest)
    | none, some mk =>
      match rest with
      | p0 :: p1 :: p2 :: p3 :: rest' => .ok (mk ⟨p0, p1, p2, p3⟩, rest')
      | _ => .error (.missingPayload op)
    | none, none => .ok (.unrecognized op, rest)

/-- A five-byte frame (30_encoding R71, format L). -/
def longFrame (op : Byte) (p : Payload) : List Byte := [op, p.p0, p.p1, p.p2, p.p3]

/-- The bytes of an instruction's frame in transmission order; an event has none (30_encoding R71 to R74, R79). -/
def encode : Instr → List Byte
  | .reset => [0x00]
  | .arm => [0x01]
  | .query => [0x02]
  | .getMetadata => [0x04]
  | .setDivider x pad => longFrame 0x80 ⟨dividerByte x 0, dividerByte x 1, dividerByte x 2, pad⟩
  | .longC0 p => longFrame 0xC0 p
  | .longC4 p => longFrame 0xC4 p
  | .longC8 p => longFrame 0xC8 p
  | .longCC p => longFrame 0xCC p
  | .longC1 p => longFrame 0xC1 p
  | .longC5 p => longFrame 0xC5 p
  | .longC9 p => longFrame 0xC9 p
  | .longCD p => longFrame 0xCD p
  | .longC2 p => longFrame 0xC2 p
  | .longC6 p => longFrame 0xC6 p
  | .longCA p => longFrame 0xCA p
  | .longCE p => longFrame 0xCE p
  | .long81 p => longFrame 0x81 p
  | .long82 p => longFrame 0x82 p
  | .unrecognized op => [op]
  | .gateStep => []
  | .tick => []
  | .drainStep => []
  | .hostDone => []
  | .rst => []

/-- The first `n` bytes of a number, least significant byte first: how the opcode table numbers the bits of a frame. -/
def bytesOfNat : Nat → Nat → List Byte
  | 0, _ => []
  | n + 1, w => BitVec.ofNat 8 w :: bytesOfNat n (w / 256)

/-- The longest frame's bytes of a table word: the word's `nbits` bits and zeros above them. -/
def tableBytes (nbits w : Nat) : List Byte := bytesOfNat 5 (w % 2 ^ nbits)

/-- The frame a table word stands for: as many of its bytes as its first byte asks for (30_encoding R75). -/
def tableFrame (nbits w : Nat) : List Byte :=
  let bs := tableBytes nbits w
  bs.take (frameLength (bs.headD 0))

/-- The instruction the decoder reads from a word of the opcode table. -/
def decodeTableWord (nbits w : Nat) : Option Instr :=
  match decode (tableFrame nbits w) with
  | .ok (i, _) => some i
  | .error _ => none

end Sys2Proof
end

