-- ==== Sys2Proof/Config.lean ====
section
/-! DEFINITION. What an implementation fixes (00_scope R6) and the free values of the model. -/

namespace Sys2Proof

/-- The four parameters of 00_scope R6. The source gives none of them a value (92_eei_decisions D21 to D24), so the
model keeps them as plain data: a statement about every state is a statement about every configuration (log 1). -/
structure Config where
  /-- BUFFERSIZE, the capacity of the capture buffer in 8-bit samples. -/
  bufferSize : Nat
  /-- REF_CLK_HZ, the reference clock of the rate calculation. -/
  refClkHz : Nat
  /-- TIMER_CLK_HZ, the frequency of the Sample Timer's tick source. -/
  timerClkHz : Nat
  /-- GATE_TIMEOUT, the gate's iteration budget. -/
  gateTimeout : Nat
  deriving DecidableEq, Repr

/-- The FREE VALUE an element of the capture buffer holds when nothing has written it since a device reset
(10_state R34, 93_implementation_defined U12): `freeBufferByte epoch i` is element `i` after device reset number `epoch`.
It has no body, so nothing can be proved of its value (log 8). -/
opaque Config.freeBufferByte : Nat → Nat → Byte

end Sys2Proof
end

