-- ==== Sys2Proof/Machine/State.lean ====
section
/-! DEFINITION. The state of the block as plain data (10_state R20 to R40), the reasons a step can stop, and the state
after device reset. Beside the block's own registers, State holds what the block's environment presents to it: the
configuration, the port level, the bytes waiting in the serial channel and the turns of the agents still to come. -/

namespace Sys2Proof.Machine

/-- The capture state `fsm` (10_state R22); `Fsm.bits` gives the 2-bit encoding. -/
inductive Fsm where
  | idle
  | gating
  | sampling
  | draining
  deriving DecidableEq, Repr

/-- The front end's parse state `pstate` (10_state R31); `PState.bits` gives the 4-bit encoding. `n` counts the payload
bytes already consumed. -/
inductive PState where
  | cmd
  | divPay (n : Fin 4)
  | longPay (n : Fin 4)
  deriving DecidableEq, Repr

/-- The output events of the block's interface (10_state R37). -/
inductive OutEvent where
  /-- `TMR_LOAD(p)`: apply period `p` to the Sample Timer without starting it. -/
  | tmrLoad (p : Word)
  /-- `TMR_START`: start the Sample Timer. -/
  | tmrStart
  /-- `TMR_STOP`: stop the Sample Timer. -/
  | tmrStop
  /-- `TX(b)`: one drain byte to the serial channel. -/
  | tx (b : Byte)
  /-- `HOST_REQ(c)`: hand command byte `c` to the Protocol Encoder. -/
  | hostReq (c : Byte)
  deriving DecidableEq, Repr

/-- Who moves in a turn (00_scope R12, 30_encoding R70). The host moves either by one byte (one `RX` event) or by one
frame, which 30_encoding R80 delivers as consecutive `RX` events (log 7). -/
inductive Agent where
  | hostByte
  | hostFrame
  | gateSequencer
  | sampleTimer
  | transmitSide
  | protocolEncoder
  | platform
  deriving DecidableEq, Repr

/-- One turn: the agent that moves and the value `port()` draws in its transition (00_scope R16; log 5). -/
structure Turn where
  agent : Agent
  port : Byte
  deriving DecidableEq, Repr

/-- The capture buffer: the elements written since device reset, by index, strictly rising. An index that is not listed
holds the free value `Config.freeBufferByte` (10_state R34; log 8). -/
abbrev Memory := List Host.Cell

/-- The state of the block and of the inputs it is given. -/
structure State where
  /-- `fsm`, the capture state (10_state R22). -/
  fsm : Fsm
  /-- `PERIOD`, timer ticks per sample (10_state R24). -/
  period : Word
  /-- `tmr_run`, the Sample Timer is running (10_state R25). -/
  tmrRun : Bool
  /-- `tmr_ie`, the timer-interrupt enable (10_state R26). -/
  tmrIe : Bool
  /-- `idx`, the Capture Index (10_state R27). -/
  idx : Word
  /-- `dptr`, the drain pointer (10_state R28). -/
  dptr : Word
  /-- `gref`, the gate's snapshot of the port (10_state R29). -/
  gref : Byte
  /-- `gcnt`, the gate countdown (10_state R30). -/
  gcnt : Word
  /-- `pstate`, the parse state of the front end (10_state R31). -/
  pstate : PState
  /-- `pay`, the divider accumulator (10_state R32). -/
  pay : Divider
  /-- `hbusy`, a hand-off to the Protocol Encoder is outstanding (10_state R33). -/
  hbusy : Bool
  /-- `buf`, the Capture Buffer (10_state R34). -/
  buf : Memory
  /-- The event history, oldest first (10_state R37). -/
  hist : List OutEvent
  /-- The model's own counter of device resets, which picks the buffer's free contents (log 8). -/
  bufEpoch : Nat
  /-- The configuration (00_scope R6); no event changes it (10_state R40; log 1). -/
  cfg : Config
  /-- The level of the input `port_in` (10_state R38; log 5). -/
  portIn : Byte
  /-- The bytes the serial channel holds for the block, oldest first (00_scope R13; log 6). -/
  rxq : List Byte
  /-- The turns still to come (00_scope R12; log 3). -/
  sched : List Turn
  deriving DecidableEq, Repr

/-- The one assertion the spec lets a model state. -/
inductive Fault where
  /-- A buffer access at an index at or above BUFFERSIZE (20_memory R53, 60_exceptions R202). Raised by TICK and
  DRAIN_STEP through `memWrite` and `memRead`. Safe: no state that keeps the spec's invariants reaches it. -/
  | bufferIndex
  deriving DecidableEq, Repr

/-- Why the model gives a case no meaning. -/
inductive Refusal where
  /-- An arm of `exec` without a meaning yet. Safe. No arm raises it now. -/
  | notModelled (mnemonic : String)
  /-- `raise Refuse(reason)`: a configuration outside the constraints of 00_scope R6 (00_scope R15). Raised by every
  instruction and every turn on such a configuration, through `whenConfigured`. Safe. -/
  | badConfiguration
  deriving DecidableEq, Repr

/-- What a transition answers. -/
abbrev Result := Host.Outcome State Fault Refusal

/-- The configuration of `State.reset`: that of program P1 in 95_test_vectors (CFG-A, BUFFERSIZE 4, GATE_TIMEOUT 1000).
DESIGN CHOICE (log 1): the spec gives the parameters no value. -/
def exampleConfig : Config :=
  { bufferSize := 4, refClkHz := 100000000, timerClkHz := 100000000, gateTimeout := 1000 }

/-- The state after device reset under a configuration: every register at the value of 10_state R39, the buffer with
nothing written, the event history empty. The inputs (port level 0, no byte waiting, no turn to come) and the counter
`bufEpoch` at 0 are DESIGN CHOICE (log 3, 5, 6, 8). -/
def State.resetWith (c : Config) : State :=
  { fsm := .idle, period := BitVec.ofNat 32 (c.timerClkHz / c.refClkHz), tmrRun := false, tmrIe := false, idx := 0,
    dptr := 0, gref := 0, gcnt := 0, pstate := .cmd, pay := 0, hbusy := false, buf := [], hist := [], bufEpoch := 0,
    cfg := c, portIn := 0, rxq := [], sched := [] }

/-- The machine right after device reset (10_state R39, 70_reset_and_hazards R230). -/
def State.reset : State := State.resetWith exampleConfig

end Sys2Proof.Machine
end

