-- ==== Sys2Proof/Machine/Ops.lean ====
section
/-! DEFINITION. The shared operations: the configuration check, the capture buffer, the event history, and the entries
into a capture and into a drain. The block raises no exception and takes a tick as one atomic transition that saves
nothing and has no vector and no return (60_exceptions R200, R204), so the only "entries" to share are CapStart and
EnterDrain, the two places where the timer interrupt is unmasked and masked (60_exceptions R203). -/

namespace Sys2Proof.Machine

/-- The constraints of 00_scope R6 on a configuration. -/
def configOk (c : Config) : Bool :=
  decide (1 ≤ c.bufferSize) && decide (c.bufferSize ≤ 2 ^ 32 - 1) &&
  decide (2 ^ 24 ≤ c.refClkHz) && decide (c.refClkHz ≤ c.timerClkHz) && decide (c.timerClkHz ≤ 2 ^ 32 - 1) &&
  decide (c.gateTimeout ≤ 2 ^ 32 - 1)

/-- A configuration outside the constraints has no meaning: it is refused before anything else (00_scope R6, R15;
log 2). -/
def whenConfigured (s : State) (r : Result) : Result :=
  if configOk s.cfg then r else .refused .badConfiguration

/-- `emit e`: record an output event at the end of the history (00_scope R9, 10_state R37). -/
def emit (e : OutEvent) (s : State) : State := { s with hist := s.hist ++ [e] }

/-- Put a value at an index of the buffer, keeping the indices strictly rising. -/
def Memory.put : Memory → Nat → Byte → Memory
  | [], i, v => [(i, v)]
  | (a, b) :: m, i, v =>
    if i < a then (i, v) :: (a, b) :: m
    else if i = a then (i, v) :: m
    else (a, b) :: Memory.put m i v

/-- The value written at an index, `none` where nothing has written it since device reset. -/
def Memory.get? : Memory → Nat → Option Byte
  | [], _ => none
  | (a, b) :: m, i => if a = i then some b else Memory.get? m i

/-- Every index of the list is above a bound and the indices rise strictly. -/
def Memory.risingFrom : Nat → Memory → Bool
  | _, [] => true
  | lo, (a, _) :: m => decide (lo ≤ a) && Memory.risingFrom (a + 1) m

/-- The canonical form: strictly rising indices. An unlisted index holds no written value, so no entry can equal what an
unlisted index reads as (log 8). -/
def Memory.wf (m : Memory) : Bool := Memory.risingFrom 0 m

/-- Element `i` of the buffer: what was last written there, else the free value of this reset (10_state R34). -/
def bufByte (s : State) (i : Nat) : Byte := (s.buf.get? i).getD (Config.freeBufferByte s.bufEpoch i)

/-- `MemWrite(i, 1, v)`, which requires `i < BUFFERSIZE` (20_memory R53; log 9). -/
def memWrite (i : Nat) (v : Byte) (s : State) : Except Fault State :=
  if i < s.cfg.bufferSize then .ok { s with buf := s.buf.put i v } else .error .bufferIndex

/-- `MemRead(i, 1)`, which requires `i < BUFFERSIZE` (20_memory R53; log 9). -/
def memRead (i : Nat) (s : State) : Except Fault Byte :=
  if i < s.cfg.bufferSize then .ok (bufByte s i) else .error .bufferIndex

/-- CapStart: to SAMPLING, the timer started and its interrupt unmasked (42_ring_controller R150). -/
def capStart (s : State) : State := emit .tmrStart { s with fsm := .sampling, tmrIe := true, tmrRun := true }

/-- EnterDrain: the timer stopped and masked, both indices at 0, to DRAINING (42_ring_controller R154). -/
def enterDrain (s : State) : State :=
  emit .tmrStop { s with tmrRun := false, tmrIe := false, idx := 0, dptr := 0, fsm := .draining }

/-- Device reset in place: every register at its value of 10_state R39, the buffer's contents unspecified again, the
history empty, no event emitted (70_reset_and_hazards R230). The configuration stays (10_state R40); the port level, the
channel's bytes and the turns belong to the environment and stay (log 6). -/
def deviceReset (s : State) : State :=
  { s with fsm := .idle, period := BitVec.ofNat 32 (s.cfg.timerClkHz / s.cfg.refClkHz), tmrRun := false, tmrIe := false,
           idx := 0, dptr := 0, gref := 0, gcnt := 0, pstate := .cmd, pay := 0, hbusy := false, buf := [], hist := [],
           bufEpoch := s.bufEpoch + 1 }

end Sys2Proof.Machine
end

