-- ==== Sys2Proof/Machine/Operands.lean ====
section
/-! DEFINITION. The operands a transition takes: the port value and the divider accumulator. -/

namespace Sys2Proof.Machine

/-- `port()`: the value the environment drives in this transition (00_scope R16; log 5). It is read only by the gate
snapshot, by a gate iteration and by a sample tick. -/
def readPort (s : State) : Byte := s.portIn

/-- `pay[8n+7 : 8n] <- b` for the divider bytes n = 0, 1, 2 (40_command_front_end R105); the pad byte, n = 3, writes no
bit of `pay`. -/
def setPayByte (n : Fin 4) (b : Byte) (pay : Divider) : Divider :=
  match n with
  | 0 => pay.extractLsb' 8 16 ++ b
  | 1 => pay.extractLsb' 16 8 ++ b ++ pay.extractLsb' 0 8
  | 2 => b ++ pay.extractLsb' 0 16
  | 3 => pay

/-- The divider as a number, zero-extended to the width of the computation (44_divider R180, R183). -/
def dividerOperand (pay : Divider) : Nat := pay.toNat

end Sys2Proof.Machine
end

