-- ==== Sys2Proof/Machine/Divider.lean ====
section
/-! DEFINITION. The Clock Divider Calculator (44_divider). -/

namespace Sys2Proof.Machine

/-- `rate(x) = REF_CLK_HZ / (x + 1)`, floor division (44_divider R181). -/
def rate (c : Config) (x : Nat) : Nat := c.refClkHz / (x + 1)

/-- `period(x) = TIMER_CLK_HZ / rate(x)`, floor division (44_divider R181). -/
def periodOf (c : Config) (x : Nat) : Nat := c.timerClkHz / rate c x

/-- DivLoad(x): write PERIOD and apply it to the Sample Timer without starting it (44_divider R183; log 10 on the
narrowing to 32 bits). -/
def divLoad (x : Divider) (s : State) : State :=
  let p : Word := BitVec.ofNat 32 (periodOf s.cfg (dividerOperand x))
  emit (.tmrLoad p) { s with period := p }

end Sys2Proof.Machine
end

