-- ==== Sys2Proof/Machine/Flags.lean ====
section
/-! DEFINITION. The conditions the block computes. It stores no condition codes (10_state R35): each of these is
combinational. -/

namespace Sys2Proof.Machine

/-- The gate's comparator: true iff any of the 8 bits differ (41_trigger_gate R131). -/
def changed (p r : Byte) : Bool := (p ^^^ r) != 0x00

/-- `rx_ready`: a byte is accepted exactly in IDLE or SAMPLING with no hand-off outstanding (40_command_front_end
R100). -/
def rxReady (s : State) : Bool := (s.fsm == .idle || s.fsm == .sampling) && !s.hbusy

/-- `we` for a TICK: the interrupt is enabled and the block is SAMPLING (42_ring_controller R151; log 11). -/
def writeEnable (s : State) : Bool := s.tmrIe && s.fsm == .sampling

/-- `full`, evaluated before `idx` changes (42_ring_controller R153). -/
def full (s : State) : Bool := s.idx.toNat + 1 == s.cfg.bufferSize

/-- The drain byte about to be sent is the last one (42_ring_controller R156). -/
def lastDrain (s : State) : Bool := s.dptr.toNat + 1 == s.cfg.bufferSize

end Sys2Proof.Machine
end

