-- ==== Sys2Proof/Machine/Gate.lean ====
section
/-! DEFINITION. The Trigger Gate (41_trigger_gate): its entry GateStart and one iteration, GATE_STEP. -/

namespace Sys2Proof.Machine

/-- GateStart: snapshot the port, clear `idx`, and start the countdown, or the capture at once when the budget is 0
(41_trigger_gate R130). -/
def gateStart (s : State) : State :=
  let s1 := { s with gref := readPort s, idx := 0 }
  if s.cfg.gateTimeout = 0 then capStart s1
  else { s1 with gcnt := BitVec.ofNat 32 s.cfg.gateTimeout, fsm := .gating }

/-- One gate iteration in GATING: compare, then count down (41_trigger_gate R132; log 11 for `gcnt` = 0). -/
def gateIteration (s : State) : State :=
  if changed (readPort s) s.gref then capStart s
  else if s.gcnt = 1 then capStart { s with gcnt := 0 }
  else { s with gcnt := s.gcnt - 1 }

/-- GATE_STEP, enabled exactly in GATING (41_trigger_gate R132); elsewhere its agent waits (00_scope R13; log 4). -/
def execGateStep (s : State) : Result :=
  whenConfigured s (.next (if s.fsm = .gating then gateIteration s else s))

end Sys2Proof.Machine
end

