-- ==== Sys2Proof/Machine/FrontEnd.lean ====
section
/-! DEFINITION. The Command Front End (40_command_front_end): one transition per accepted byte. The front end's own
decoder is the parse state; it classifies a byte only where a command byte is due (R101). -/

namespace Sys2Proof.Machine

/-- RESET: no state changes (40_command_front_end R102). -/
def resetCommand (s : State) : State := s

/-- ARM: start the gate in IDLE, nothing in SAMPLING (40_command_front_end R103). -/
def armCommand (s : State) : State := if s.fsm = .idle then gateStart s else s

/-- SET_DIVIDER's command byte (40_command_front_end R104). -/
def setDividerCommand (s : State) : State := { s with pstate := .divPay 0, pay := 0 }

/-- QUERY: hand off to the Protocol Encoder (40_command_front_end R106). -/
def queryCommand (s : State) : State := { emit (.hostReq 0x02) s with hbusy := true }

/-- GET_METADATA: hand off to the Protocol Encoder (40_command_front_end R107). -/
def getMetadataCommand (s : State) : State := { emit (.hostReq 0x04) s with hbusy := true }

/-- The command byte of every LONG value (40_command_front_end R109). -/
def longCommand (s : State) : State := { s with pstate := .longPay 0 }

/-- UNRECOGNIZED: no state changes (40_command_front_end R111). -/
def unrecognizedCommand (s : State) : State := s

/-- A payload byte of SET_DIVIDER: store it, or on the pad byte apply the divider (40_command_front_end R105). -/
def dividerPayload (n : Fin 4) (b : Byte) (s : State) : State :=
  if n < 3 then { s with pay := setPayByte n b s.pay, pstate := .divPay (n + 1) }
  else { divLoad s.pay s with pstate := .cmd }

/-- A payload byte of a LONG frame: count it (40_command_front_end R110). -/
def longPayload (n : Fin 4) (s : State) : State :=
  if n < 3 then { s with pstate := .longPay (n + 1) } else { s with pstate := .cmd }

/-- A command byte, by its class (40_command_front_end R101). -/
def commandByte (b : Byte) (s : State) : State :=
  match classify b with
  | .reset => resetCommand s
  | .arm => armCommand s
  | .query => queryCommand s
  | .getMetadata => getMetadataCommand s
  | .setDivider => setDividerCommand s
  | .long => longCommand s
  | .unrecognized => unrecognizedCommand s

/-- `RX(b)`: the transition of an accepted byte (40_command_front_end R101). -/
def rxByte (b : Byte) (s : State) : State :=
  match s.pstate with
  | .cmd => commandByte b s
  | .divPay n => dividerPayload n b s
  | .longPay n => longPayload n s

/-- The host's chance to deliver the next byte of the channel: taken when `rx_ready` holds and a byte is there, otherwise
the byte stays in the channel (40_command_front_end R100, 00_scope R13). -/
def acceptByte (s : State) : State :=
  match s.rxq with
  | [] => s
  | b :: rest => if rxReady s then rxByte b { s with rxq := rest } else s

/-- `n` chances in a row. -/
def acceptBytes : Nat → State → State
  | 0, s => s
  | n + 1, s => acceptBytes n (acceptByte s)

/-- A frame line of 30_encoding R80: its bytes stand at the head of the channel and are delivered as consecutive `RX`
events. A byte the front end does not accept stays there with those after it (log 7). -/
def sendFrame (bytes : List Byte) (s : State) : Result :=
  whenConfigured s (.next (acceptBytes bytes.length { s with rxq := bytes ++ s.rxq }))

end Sys2Proof.Machine
end

