-- ==== Sys2Proof/Machine/Commands.lean ====
section
/-! DEFINITION. The meaning of every host frame: its bytes, in order, as `RX` events of the front end (30_encoding R71,
R80). What each byte does is `rxByte`; at a frame's start (`pstate` = CMD) with `rx_ready` = 1 that is the rule named
beside each definition, and anywhere else it is the desynchronization of 30_encoding R78 or the waiting of 00_scope
R13. -/

namespace Sys2Proof.Machine

/-- RESET (40_command_front_end R102: `resetCommand`). -/
def execReset (s : State) : Result := sendFrame (encode .reset) s

/-- ARM (40_command_front_end R103: `armCommand`). -/
def execArm (s : State) : Result := sendFrame (encode .arm) s

/-- QUERY (40_command_front_end R106: `queryCommand`). -/
def execQuery (s : State) : Result := sendFrame (encode .query) s

/-- GET_METADATA (40_command_front_end R107: `getMetadataCommand`). -/
def execGetMetadata (s : State) : Result := sendFrame (encode .getMetadata) s

/-- SET_DIVIDER (40_command_front_end R104, R105: `setDividerCommand`, then `dividerPayload` four times; 44_divider
R183: `divLoad`). -/
def execSetDivider (x : Divider) (pad : Byte) (s : State) : Result := sendFrame (encode (.setDivider x pad)) s

/-- LONG_0xC0 (40_command_front_end R109, R110: `longCommand`, then `longPayload` four times). -/
def execLongC0 (p : Payload) (s : State) : Result := sendFrame (encode (.longC0 p)) s

/-- LONG_0xC4 (40_command_front_end R109, R110: `longCommand`, then `longPayload` four times). -/
def execLongC4 (p : Payload) (s : State) : Result := sendFrame (encode (.longC4 p)) s

/-- LONG_0xC8 (40_command_front_end R109, R110: `longCommand`, then `longPayload` four times). -/
def execLongC8 (p : Payload) (s : State) : Result := sendFrame (encode (.longC8 p)) s

/-- LONG_0xCC (40_command_front_end R109, R110: `longCommand`, then `longPayload` four times). -/
def execLongCC (p : Payload) (s : State) : Result := sendFrame (encode (.longCC p)) s

/-- LONG_0xC1 (40_command_front_end R109, R110: `longCommand`, then `longPayload` four times). -/
def execLongC1 (p : Payload) (s : State) : Result := sendFrame (encode (.longC1 p)) s

/-- LONG_0xC5 (40_command_front_end R109, R110: `longCommand`, then `longPayload` four times). -/
def execLongC5 (p : Payload) (s : State) : Result := sendFrame (encode (.longC5 p)) s

/-- LONG_0xC9 (40_command_front_end R109, R110: `longCommand`, then `longPayload` four times). -/
def execLongC9 (p : Payload) (s : State) : Result := sendFrame (encode (.longC9 p)) s

/-- LONG_0xCD (40_command_front_end R109, R110: `longCommand`, then `longPayload` four times). -/
def execLongCD (p : Payload) (s : State) : Result := sendFrame (encode (.longCD p)) s

/-- LONG_0xC2 (40_command_front_end R109, R110: `longCommand`, then `longPayload` four times). -/
def execLongC2 (p : Payload) (s : State) : Result := sendFrame (encode (.longC2 p)) s

/-- LONG_0xC6 (40_command_front_end R109, R110: `longCommand`, then `longPayload` four times). -/
def execLongC6 (p : Payload) (s : State) : Result := sendFrame (encode (.longC6 p)) s

/-- LONG_0xCA (40_command_front_end R109, R110: `longCommand`, then `longPayload` four times). -/
def execLongCA (p : Payload) (s : State) : Result := sendFrame (encode (.longCA p)) s

/-- LONG_0xCE (40_command_front_end R109, R110: `longCommand`, then `longPayload` four times). -/
def execLongCE (p : Payload) (s : State) : Result := sendFrame (encode (.longCE p)) s

/-- LONG_0x81 (40_command_front_end R109, R110: `longCommand`, then `longPayload` four times). -/
def execLong81 (p : Payload) (s : State) : Result := sendFrame (encode (.long81 p)) s

/-- LONG_0x82 (40_command_front_end R109, R110: `longCommand`, then `longPayload` four times). -/
def execLong82 (p : Payload) (s : State) : Result := sendFrame (encode (.long82 p)) s

/-- UNRECOGNIZED (40_command_front_end R111: `unrecognizedCommand`). -/
def execUnrecognized (op : Byte) (s : State) : Result := sendFrame (encode (.unrecognized op)) s

end Sys2Proof.Machine
end

