-- ==== Sys2Proof/Machine/Handoff.lean ====
section
/-! DEFINITION. The events of the Protocol Encoder and of the platform. -/

namespace Sys2Proof.Machine

/-- HOST_DONE: the outstanding hand-off is complete (40_command_front_end R108). Where none is outstanding the event is
not enabled and its agent waits (log 4). -/
def execHostDone (s : State) : Result :=
  whenConfigured s (.next (if s.hbusy then { s with hbusy := false } else s))

/-- RST: device reset, enabled in every state (70_reset_and_hazards R230). -/
def execRst (s : State) : Result := whenConfigured s (.next (deviceReset s))

end Sys2Proof.Machine
end

