-- ==== Sys2Proof/Machine/Ring.lean ====
section
/-! DEFINITION. The Capture ring controller (42_ring_controller): TICK and DRAIN_STEP. -/

namespace Sys2Proof.Machine

/-- One sample: write the port value at `idx`; enter the drain when that fills the buffer, else advance `idx`
(42_ring_controller R152, R153). -/
def takeSample (s : State) : Result :=
  match memWrite s.idx.toNat (readPort s) s with
  | .ok s1 => .next (if full s then enterDrain s1 else { s1 with idx := s1.idx + 1 })
  | .error f => .fault f

/-- TICK: a sample when the write enable holds (42_ring_controller R151, R152), otherwise nothing, and the port is not
read (R155). -/
def execTick (s : State) : Result :=
  whenConfigured s (if writeEnable s then takeSample s else .next s)

/-- One drain byte: send `buf[dptr]`; back to IDLE after the last, else advance `dptr` (42_ring_controller R156,
R157). -/
def sendDrainByte (s : State) : Result :=
  match memRead s.dptr.toNat s with
  | .ok b =>
    let s1 := emit (.tx b) s
    .next (if lastDrain s then { s1 with dptr := 0, fsm := .idle } else { s1 with dptr := s1.dptr + 1 })
  | .error f => .fault f

/-- DRAIN_STEP, enabled exactly in DRAINING (42_ring_controller R156); elsewhere its agent waits (00_scope R13;
log 4). -/
def execDrainStep (s : State) : Result :=
  whenConfigured s (if s.fsm = .draining then sendDrainByte s else .next s)

end Sys2Proof.Machine
end

