-- ==== Sys2Proof/Machine/Dispatch.lean ====
section
/-! DEFINITION. One arm per constructor of Instr, each a direct call of its meaning. -/

namespace Sys2Proof.Machine

def exec (i : Instr) (s : State) : Host.Outcome State Fault Refusal :=
  match i with
  | .reset => Sys2Proof.Machine.execReset s
  | .arm => Sys2Proof.Machine.execArm s
  | .query => Sys2Proof.Machine.execQuery s
  | .getMetadata => Sys2Proof.Machine.execGetMetadata s
  | .setDivider x pad => Sys2Proof.Machine.execSetDivider x pad s
  | .longC0 p => Sys2Proof.Machine.execLongC0 p s
  | .longC4 p => Sys2Proof.Machine.execLongC4 p s
  | .longC8 p => Sys2Proof.Machine.execLongC8 p s
  | .longCC p => Sys2Proof.Machine.execLongCC p s
  | .longC1 p => Sys2Proof.Machine.execLongC1 p s
  | .longC5 p => Sys2Proof.Machine.execLongC5 p s
  | .longC9 p => Sys2Proof.Machine.execLongC9 p s
  | .longCD p => Sys2Proof.Machine.execLongCD p s
  | .longC2 p => Sys2Proof.Machine.execLongC2 p s
  | .longC6 p => Sys2Proof.Machine.execLongC6 p s
  | .longCA p => Sys2Proof.Machine.execLongCA p s
  | .longCE p => Sys2Proof.Machine.execLongCE p s
  | .long81 p => Sys2Proof.Machine.execLong81 p s
  | .long82 p => Sys2Proof.Machine.execLong82 p s
  | .unrecognized op => Sys2Proof.Machine.execUnrecognized op s
  | .gateStep => Sys2Proof.Machine.execGateStep s
  | .tick => Sys2Proof.Machine.execTick s
  | .drainStep => Sys2Proof.Machine.execDrainStep s
  | .hostDone => Sys2Proof.Machine.execHostDone s
  | .rst => Sys2Proof.Machine.execRst s

end Sys2Proof.Machine
end

