-- ==== Sys2Proof/Machine/Turns.lean ====
section
/-! DEFINITION. What an agent's turn does, and how the next turn is taken (00_scope R11 to R13, 60_exceptions R205). -/

namespace Sys2Proof.Machine

/-- The host delivers one byte: one `RX` event (40_command_front_end R101). -/
def hostByteTurn (s : State) : Result := whenConfigured s (.next (acceptByte s))

/-- The host delivers the frame at the head of the channel (30_encoding R80). Where the channel holds no whole frame the
turn delivers one byte (log 7). -/
def hostFrameTurn (s : State) : Result :=
  match decode s.rxq with
  | .ok (i, rest) => exec i { s with rxq := rest }
  | .error _ => hostByteTurn s

/-- The event an agent causes when it moves (00_scope R12). -/
def agentTurn (a : Agent) (s : State) : Result :=
  match a with
  | .hostByte => hostByteTurn s
  | .hostFrame => hostFrameTurn s
  | .gateSequencer => exec .gateStep s
  | .sampleTimer => exec .tick s
  | .transmitSide => exec .drainStep s
  | .protocolEncoder => exec .hostDone s
  | .platform => exec .rst s

/-- Take the next turn: the port shows the turn's value and the turn's agent moves. With no turn to come the block waits
and no state is lost (60_exceptions R213; log 3). -/
def nextTurn (s : State) : Result :=
  match s.sched with
  | [] => whenConfigured s (.next s)
  | t :: rest => agentTurn t.agent { s with sched := rest, portIn := t.port }

/-- The state with a frame at the head of the channel and the host's frame turn as the next turn, the port level as it
is (log 15). -/
def placeFrame (bytes : List Byte) (s : State) : State :=
  { s with rxq := bytes ++ s.rxq, sched := ⟨.hostFrame, s.portIn⟩ :: s.sched }

end Sys2Proof.Machine
end

