-- ==== Sys2Proof/Machine/Step.lean ====
section
/-! DEFINITION. One step of the machine: the next turn. -/

namespace Sys2Proof.Machine

/-- One transition (or, for a host frame, the consecutive transitions of its bytes): the next turn of the schedule. -/
def step (s : State) : Host.Outcome State Fault Refusal := nextTurn s

/-- `s` with the frame of a word of the opcode table at the head of the serial channel and the host's frame turn next. -/
def State.withFetchWord (s : State) (nbits w : Nat) : State := placeFrame (tableFrame nbits w) s

end Sys2Proof.Machine
end

