-- ==== Sys2Proof/Machine/Assembler.lean ====
section
/-! DEFINITION. The line syntax of 30_encoding R80 and R81: what each line puts into the serial channel and which turn it
schedules. -/

namespace Sys2Proof.Machine

/-- One line: the bytes it sends, the agent that moves, and the port value where the line names one. -/
structure Line where
  bytes : List Byte
  agent : Agent
  port : Option Byte
  deriving DecidableEq, Repr

/-- A line that sends a whole frame. -/
def frameLine (i : Instr) (port : Option Byte) : Line := { bytes := encode i, agent := .hostFrame, port := port }

/-- `RESET`. -/
def lineReset : Line := frameLine .reset none

/-- `ARM port=P`. -/
def lineArm (p : Byte) : Line := frameLine .arm (some p)

/-- `QUERY`. -/
def lineQuery : Line := frameLine .query none

/-- `GET_METADATA`. -/
def lineGetMetadata : Line := frameLine .getMetadata none

/-- `SET_DIVIDER X, Q`. -/
def lineSetDividerPad (x : Divider) (q : Byte) : Line := frameLine (.setDivider x q) none

/-- `SET_DIVIDER X`, the shorthand for pad 0x00 (30_encoding R81). -/
def lineSetDivider (x : Divider) : Line := lineSetDividerPad x 0x00

/-- `LONG C, A, B, D, E`; C must be a LONG value. -/
def lineLong (c a b d e : Byte) : Option Line :=
  if c ∈ longOps then some { bytes := longFrame c ⟨a, b, d, e⟩, agent := .hostFrame, port := none } else none

/-- `BYTE B`: one raw byte, one `RX(B)` whatever the parse state. -/
def lineByte (b : Byte) : Line := { bytes := [b], agent := .hostByte, port := none }

/-- `@GATE port=P`. -/
def lineGate (p : Byte) : Line := { bytes := [], agent := .gateSequencer, port := some p }

/-- `@TICK port=P`. -/
def lineTick (p : Byte) : Line := { bytes := [], agent := .sampleTimer, port := some p }

/-- `@DRAIN`. -/
def lineDrain : Line := { bytes := [], agent := .transmitSide, port := none }

/-- `@DONE`. -/
def lineDone : Line := { bytes := [], agent := .protocolEncoder, port := none }

/-- `@RST`. -/
def lineRst : Line := { bytes := [], agent := .platform, port := none }

/-- Load a program: its bytes at the end of the channel, its turns at the end of the schedule. A line that names no port
value keeps the level the port has when the program is loaded (log 14). -/
def loadProgram (ls : List Line) (s : State) : State :=
  { s with rxq := s.rxq ++ ls.flatMap Line.bytes, sched := s.sched ++ ls.map fun l => ⟨l.agent, l.port.getD s.portIn⟩ }

end Sys2Proof.Machine
end

