-- ==== Sys2Proof/Machine/Encoder.lean ====
section
/-! DEFINITION. What the surrounding Protocol Encoder sends on a hand-off (40_command_front_end R114): a duty of the
environment, outside the block (00_scope R5), written down here for statements about a host's view. No step uses it
(log 12). -/

namespace Sys2Proof.Machine

/-- The device metadata without a value in the source (00_scope R8): the name string and the maximum sample rate. -/
structure Metadata where
  name : List Byte
  maxRate : Word
  deriving DecidableEq, Repr

/-- Four bytes of a 32-bit value, most significant first (40_command_front_end R114). -/
def bigEndian (w : Word) : List Byte :=
  [w.extractLsb' 24 8, w.extractLsb' 16 8, w.extractLsb' 8 8, w.extractLsb' 0 8]

/-- The reply to `HOST_REQ(0x02)`: the ASCII of "1ALS" (40_command_front_end R114). -/
def queryReply : List Byte := [0x31, 0x41, 0x4C, 0x53]

/-- The reply to `HOST_REQ(0x04)`: name, buffer capacity, maximum rate, probe count 8, protocol version 2, end marker
(40_command_front_end R114). -/
def metadataReply (c : Config) (m : Metadata) : List Byte :=
  [0x01] ++ m.name ++ [0x00] ++ [0x21] ++ bigEndian (BitVec.ofNat 32 c.bufferSize) ++ [0x23] ++ bigEndian m.maxRate ++
  [0x40, 0x08] ++ [0x41, 0x02] ++ [0x00]

/-- The reply to a hand-off; the block hands off no other code. -/
def encoderReply (c : Config) (m : Metadata) (code : Byte) : Option (List Byte) :=
  if code = 0x02 then some queryReply else if code = 0x04 then some (metadataReply c m) else none

end Sys2Proof.Machine
end

