-- ==== Sys2Proof/Machine/Interface.lean ====
section
/-! DEFINITION. The state encodings and the interface signals of 10_state R22, R31 and R38. Nothing here is stored: the
output levels are functions of the state, and the output strobes are the events a transition records. -/

namespace Sys2Proof.Machine

/-- The 2-bit encoding of `fsm` (10_state R22). -/
def Fsm.bits : Fsm → BitVec 2
  | .idle => 0
  | .gating => 1
  | .sampling => 2
  | .draining => 3

/-- The 4-bit encoding of `pstate`; 9 to 15 encode nothing (10_state R31; log 16). -/
def PState.bits : PState → BitVec 4
  | .cmd => 0
  | .divPay n => BitVec.ofNat 4 (1 + n.val)
  | .longPay n => BitVec.ofNat 4 (5 + n.val)

/-- The output levels of 10_state R38. -/
structure Levels where
  rxReady : Bool
  txValid : Bool
  txData : Byte
  tmrPeriod : Word
  tmrRun : Bool
  deriving DecidableEq, Repr

/-- The output levels a state drives: `tx_valid` exactly in DRAINING with `tx_data` = `buf[dptr]`, `tmr_period` and
`tmr_run` the registers, `rx_ready` by 40_command_front_end R100 (10_state R24, R25, R38). DESIGN CHOICE (log 17): R38
gives `tx_data` no value while `tx_valid` = 0, and the model drives `buf[dptr]` there too. -/
def levels (s : State) : Levels :=
  { rxReady := rxReady s, txValid := s.fsm == .draining, txData := bufByte s s.dptr.toNat, tmrPeriod := s.period,
    tmrRun := s.tmrRun }

/-- The output strobes of 10_state R38; `hostReq` carries `host_code`. -/
structure Strobes where
  tmrLoad : Bool
  tmrStart : Bool
  tmrStop : Bool
  hostReq : Option Byte
  deriving DecidableEq, Repr

/-- The byte of a `HOST_REQ` event. -/
def OutEvent.hostCode? : OutEvent → Option Byte
  | .hostReq c => some c
  | .tmrLoad _ | .tmrStart | .tmrStop | .tx _ => none

/-- The strobes of the events one transition records (10_state R37, R38). -/
def strobes (es : List OutEvent) : Strobes :=
  { tmrLoad := es.any fun e => match e with | .tmrLoad _ => true | .tmrStart | .tmrStop | .tx _ | .hostReq _ => false,
    tmrStart := es.contains .tmrStart, tmrStop := es.contains .tmrStop, hostReq := es.findSome? OutEvent.hostCode? }

/-- The events a transition from `s` to `t` records. A device reset records none (70_reset_and_hazards R230). -/
def emitted (s t : State) : List OutEvent := t.hist.drop s.hist.length

/-- The inputs of 10_state R38 beside `rx_data`, which is the head of the channel, and `port_in`. -/
structure Strokes where
  rxValid : Bool
  tick : Bool
  txReady : Bool
  hostDone : Bool
  rst : Bool
  deriving DecidableEq, Repr

/-- The agents whose event the inputs present in a state: a handshake needs both its sides, a strobe needs itself
(30_encoding R79, 10_state R38). They are taken one a transition, in any order (00_scope R11; log 13). -/
def presented (x : Strokes) (s : State) : List Agent :=
  (if x.rxValid && rxReady s then [.hostByte] else []) ++ (if x.tick then [.sampleTimer] else []) ++
  (if x.txReady && s.fsm == .draining then [.transmitSide] else []) ++
  (if x.hostDone && s.hbusy then [.protocolEncoder] else []) ++ (if x.rst then [.platform] else [])

end Sys2Proof.Machine
end

