-- ==== Sys2Proof/Safety.lean ====
section
/-! DEFINITION. The invariants every reachable state keeps (10_state R23, R24, R27, R28; 20_memory R53, R64), and the
terms in which statements speak of several turns. -/

namespace Sys2Proof.Machine

/-- The table of 10_state R23, with the countdown's range in GATING (41_trigger_gate R135). -/
abbrev PhaseInv (s : State) : Prop :=
  (s.fsm = .idle → s.tmrRun = false ∧ s.tmrIe = false ∧ s.idx = 0 ∧ s.dptr = 0) ∧
  (s.fsm = .gating → s.tmrRun = false ∧ s.tmrIe = false ∧ s.idx = 0 ∧ s.dptr = 0 ∧
    1 ≤ s.gcnt.toNat ∧ s.gcnt.toNat ≤ s.cfg.gateTimeout) ∧
  (s.fsm = .sampling → s.tmrRun = true ∧ s.tmrIe = true ∧ s.idx.toNat < s.cfg.bufferSize ∧ s.dptr = 0) ∧
  (s.fsm = .draining → s.tmrRun = false ∧ s.tmrIe = false ∧ s.idx = 0 ∧ s.dptr.toNat < s.cfg.bufferSize)

/-- The legal values of PERIOD (10_state R24). -/
abbrev PeriodInv (s : State) : Prop := 1 ≤ s.period.toNat ∧ s.period.toNat ≤ s.cfg.timerClkHz

/-- The buffer is in canonical form and lists only its own indices (10_state R34, 20_memory R50). -/
abbrev BufferInv (s : State) : Prop := Memory.wf s.buf = true ∧ ∀ c ∈ s.buf, c.1 < s.cfg.bufferSize

/-- Every element a drain may send has been written: those below `idx` in SAMPLING, all of them in DRAINING (20_memory
R64). -/
abbrev WrittenInv (s : State) : Prop :=
  (s.fsm = .sampling → ∀ j < s.idx.toNat, (s.buf.get? j).isSome = true) ∧
  (s.fsm = .draining → ∀ j < s.cfg.bufferSize, (s.buf.get? j).isSome = true)

/-- In DIVPAY(n) only the n bytes received are in `pay` (10_state R32, 40_command_front_end R104). -/
abbrev PayInv (s : State) : Prop :=
  ∀ n : Fin 4, s.pstate = .divPay n → s.pay.toNat < 2 ^ (8 * n.val)

/-- A gate never runs while a hand-off is outstanding (40_command_front_end R100, R103). -/
abbrev HandoffInv (s : State) : Prop := s.fsm = .gating → s.hbusy = false

/-- The invariant of the machine. -/
abbrev Inv (s : State) : Prop :=
  configOk s.cfg = true ∧ PhaseInv s ∧ PeriodInv s ∧ BufferInv s ∧ WrittenInv s ∧ PayInv s ∧ HandoffInv s

/-- The port values the timer's turns show, in order. -/
def portsOf (a : Agent) (ts : List Turn) : List Byte := (ts.filter fun t => t.agent == a).map Turn.port

/-- The device is not reset in these turns. -/
abbrev NoReset (ts : List Turn) : Prop := ∀ t ∈ ts, t.agent ≠ .platform

/-- `n` steps of the machine. -/
def steps : Nat → State → Result
  | 0, s => .next s
  | n + 1, s =>
    match step s with
    | .next t => steps n t
    | .fault f => .fault f
    | .refused r => .refused r

end Sys2Proof.Machine
end

