-- ==== Sys2Proof/Certificates/Slice0/Obligations.lean ====
section
/-! DEFINITION. The statements for the provers. Each docstring names the rule of spec/ it formalises. A statement about a
command names the state in which its frame starts: the configuration legal (00_scope R6), `rx_ready` = 1 and `pstate` =
CMD, the preconditions the command's rule writes above its pseudocode. -/

open Sys2Proof Sys2Proof.Machine

/-! ### Encoding -/

/-- 30_encoding R72, R73 and opcode_table.json: words written out from the table decode to their rows (log 15 on how a
table word lies in the channel). -/
def Obligations.DecodesWrittenWords : Prop :=
  decodeTableWord 8 0b00000000 = some .reset ∧
  decodeTableWord 8 0b00000001 = some .arm ∧
  decodeTableWord 8 0b00000010 = some .query ∧
  decodeTableWord 8 0b00000100 = some .getMetadata ∧
  decodeTableWord 40 0xFF03020180 = some (.setDivider 0x030201 0xFF) ∧
  decodeTableWord 40 0x44332211C5 = some (.longC5 ⟨0x11, 0x22, 0x33, 0x44⟩) ∧
  decodeTableWord 8 0b10000011 = some (.unrecognized 0x83) ∧
  decode [0x80, 0x09, 0x00, 0x00] = .error (.missingPayload 0x80)

/-- 30_encoding R71 to R74: every well-formed frame, followed by any bytes, decodes to itself and leaves those bytes. -/
def Obligations.DecodeEncodeRoundTrip : Prop :=
  ∀ (i : Instr) (rest : List Byte), i.wellFormed = true → i.isFrame = true →
    decode (encode i ++ rest) = .ok (i, rest)

/-- 30_encoding R71, R72, R75: whatever the decoder reads is a well-formed frame, and the bytes it took are that frame's
encoding, so no two instructions share bytes and no byte is dropped. -/
def Obligations.EncodeDecodeRoundTrip : Prop :=
  ∀ (bs rest : List Byte) (i : Instr), decode bs = .ok (i, rest) →
    bs = encode i ++ rest ∧ i.wellFormed = true ∧ i.isFrame = true

/-- 30_encoding R72, R75: the class of each of the 256 values, the source's decoder test for LONG, and the frame length
that the first byte alone decides. -/
def Obligations.OpcodeMap : Prop :=
  ∀ op : Byte,
    (classify op = .reset ↔ op = 0x00) ∧ (classify op = .arm ↔ op = 0x01) ∧ (classify op = .query ↔ op = 0x02) ∧
    (classify op = .getMetadata ↔ op = 0x04) ∧ (classify op = .setDivider ↔ op = 0x80) ∧
    (classify op = .long ↔ op = 0x81 ∨ op = 0x82 ∨ (op.extractLsb' 4 4 = 0xC ∧ op.extractLsb' 0 2 ≠ 3)) ∧
    (frameLength op = 5 ↔ classify op = .setDivider ∨ classify op = .long) ∧
    (frameLength op = 1 ↔ ¬ (classify op = .setDivider ∨ classify op = .long))

/-- 30_encoding R78: the worked case `[0x83, 0x01, 0x00, 0x00, 0x00]` is UNRECOGNIZED, ARM and three RESETs. -/
def Obligations.DesynchronizedStreamDecodes : Prop :=
  decode [0x83, 0x01, 0x00, 0x00, 0x00] = .ok (.unrecognized 0x83, [0x01, 0x00, 0x00, 0x00]) ∧
  decode [0x01, 0x00, 0x00, 0x00] = .ok (.arm, [0x00, 0x00, 0x00]) ∧
  decode [0x00, 0x00, 0x00] = .ok (.reset, [0x00, 0x00]) ∧
  decode [0x00, 0x00] = .ok (.reset, [0x00]) ∧ decode [0x00] = .ok (.reset, [])

/-! ### Steps -/

/-- A step runs the instruction of its turn: the host's frame turn runs the frame that the channel's head decodes to, on
the state with those bytes taken; a frame turn whose channel holds no whole frame is a byte turn (the model's choice,
log 7); each other agent's turn runs its event; a step with no turn to come changes nothing (the last clause and the form
of a turn are the model's, log 3 and log 7). -/
def Obligations.StepRunsTheTurnsInstruction : Prop :=
  ∀ (s : State) (p : Byte) (ts : List Turn),
    (∀ (i : Instr) (rest : List Byte), s.sched = ⟨.hostFrame, p⟩ :: ts → decode s.rxq = .ok (i, rest) →
      step s = exec i { s with sched := ts, portIn := p, rxq := rest }) ∧
    (∀ e : DecodeError, s.sched = ⟨.hostFrame, p⟩ :: ts → decode s.rxq = .error e →
      step s = step { s with sched := ⟨.hostByte, p⟩ :: ts }) ∧
    (s.sched = ⟨.gateSequencer, p⟩ :: ts → step s = exec .gateStep { s with sched := ts, portIn := p }) ∧
    (s.sched = ⟨.sampleTimer, p⟩ :: ts → step s = exec .tick { s with sched := ts, portIn := p }) ∧
    (s.sched = ⟨.transmitSide, p⟩ :: ts → step s = exec .drainStep { s with sched := ts, portIn := p }) ∧
    (s.sched = ⟨.protocolEncoder, p⟩ :: ts → step s = exec .hostDone { s with sched := ts, portIn := p }) ∧
    (s.sched = ⟨.platform, p⟩ :: ts → step s = exec .rst { s with sched := ts, portIn := p }) ∧
    (s.sched = [] → configOk s.cfg = true → step s = .next s)

/-- A frame placed by `withFetchWord` is the next instruction the machine runs, in any state (log 15). -/
def Obligations.PlacedFrameRunsNext : Prop :=
  ∀ (s : State) (nbits w : Nat) (i : Instr), decodeTableWord nbits w = some i →
    step (s.withFetchWord nbits w) = exec i s

/-- 30_encoding R80: a frame turn is as many consecutive byte turns as the frame has bytes, all under one port value; one
whose channel holds no whole frame is a single byte turn (both are the model's reading, log 7). -/
def Obligations.FrameTurnIsItsByteTurns : Prop :=
  ∀ (s : State) (p : Byte) (ts : List Turn), configOk s.cfg = true → s.sched = ⟨.hostFrame, p⟩ :: ts →
    (∀ (i : Instr) (rest : List Byte), decode s.rxq = .ok (i, rest) →
      step s = steps (encode i).length
        { s with sched := List.replicate (encode i).length ⟨.hostByte, p⟩ ++ ts }) ∧
    (∀ e : DecodeError, decode s.rxq = .error e → step s = steps 1 { s with sched := ⟨.hostByte, p⟩ :: ts })

/-! ### The front end -/

/-- 40_command_front_end R100: a byte is accepted exactly in IDLE or SAMPLING with no hand-off outstanding; a byte that
is not accepted waits. That the waiting is a step in which the turn passes and nothing else changes, and that the byte
stays at the head of `rxq`, is the model's choice (log 4 and log 6). -/
def Obligations.ByteAcceptedExactlyWhenReady : Prop :=
  (∀ s : State, rxReady s = true ↔ (s.fsm = .idle ∨ s.fsm = .sampling) ∧ s.hbusy = false) ∧
  (∀ (s : State) (p b : Byte) (ts : List Turn) (rest : List Byte), configOk s.cfg = true →
    s.sched = ⟨.hostByte, p⟩ :: ts → s.rxq = b :: rest →
    (rxReady s = true → ∃ t, step s = .next t ∧ t.rxq = rest) ∧
    (rxReady s = false → step s = .next { s with sched := ts, portIn := p }))

/-- 40_command_front_end R100, 00_scope R13: while `rx_ready` = 0 a frame of any instruction waits whole at the head of
the channel and nothing else changes (the channel as a list of bytes, and that a frame turn leaves the frame there, are
the model's, log 6 and log 7). -/
def Obligations.FramesWaitUntilReady : Prop :=
  ∀ (s : State) (i : Instr), configOk s.cfg = true → rxReady s = false → i.isFrame = true →
    exec i s = .next { s with rxq := encode i ++ s.rxq }

/-- 40_command_front_end R102: RESET changes no state, in IDLE and in SAMPLING. -/
def Obligations.ResetCommandChangesNothing : Prop :=
  ∀ s : State, configOk s.cfg = true → rxReady s = true → s.pstate = .cmd → exec .reset s = .next s

/-- 40_command_front_end R111: an unrecognized byte changes no state. -/
def Obligations.UnrecognizedByteChangesNothing : Prop :=
  ∀ (s : State) (op : Byte), configOk s.cfg = true → rxReady s = true → s.pstate = .cmd →
    (Instr.unrecognized op).wellFormed = true → exec (.unrecognized op) s = .next s

/-- 40_command_front_end R103, 41_trigger_gate R130, 42_ring_controller R150: ARM in IDLE snapshots the port and starts
the countdown, or with a zero budget starts the capture at once; ARM in SAMPLING changes nothing. -/
def Obligations.ArmStartsTheGate : Prop :=
  ∀ s : State, configOk s.cfg = true → rxReady s = true → s.pstate = .cmd →
    (s.fsm = .idle → s.cfg.gateTimeout = 0 → exec .arm s = .next { s with
      gref := s.portIn, idx := 0, fsm := .sampling, tmrIe := true, tmrRun := true, hist := s.hist ++ [.tmrStart] }) ∧
    (s.fsm = .idle → s.cfg.gateTimeout ≠ 0 → exec .arm s = .next { s with
      gref := s.portIn, idx := 0, gcnt := BitVec.ofNat 32 s.cfg.gateTimeout, fsm := .gating }) ∧
    (s.fsm = .sampling → exec .arm s = .next s)

/-- 40_command_front_end R106, R107: QUERY and GET_METADATA hand their code to the Protocol Encoder and set `hbusy`. -/
def Obligations.HandoffCommandsSetBusy : Prop :=
  ∀ s : State, configOk s.cfg = true → rxReady s = true → s.pstate = .cmd →
    exec .query s = .next { s with hist := s.hist ++ [.hostReq 0x02], hbusy := true } ∧
    exec .getMetadata s = .next { s with hist := s.hist ++ [.hostReq 0x04], hbusy := true }

/-- 44_divider R181, R183: a SET_DIVIDER frame, whatever its pad byte, writes PERIOD with the two-step floor quotient of
its divider and emits it as TMR_LOAD; the capture state and the timer controls stay. -/
def Obligations.SetDividerLoadsThePeriod : Prop :=
  ∀ (s : State) (x : Divider) (pad : Byte), configOk s.cfg = true → rxReady s = true → s.pstate = .cmd →
    exec (.setDivider x pad) s = .next { s with
      pay := x
      period := BitVec.ofNat 32 (s.cfg.timerClkHz / (s.cfg.refClkHz / (x.toNat + 1)))
      hist := s.hist ++ [.tmrLoad (BitVec.ofNat 32 (s.cfg.timerClkHz / (s.cfg.refClkHz / (x.toNat + 1))))] }

/-- 30_encoding R74, 40_command_front_end R109, R110: a LONG frame of any of the fourteen values and any payload changes
nothing and ends at a command byte. -/
def Obligations.LongFramesChangeNothing : Prop :=
  ∀ (s : State) (p : Payload), configOk s.cfg = true → rxReady s = true → s.pstate = .cmd →
    exec (.longC0 p) s = .next s ∧ exec (.longC4 p) s = .next s ∧ exec (.longC8 p) s = .next s ∧
    exec (.longCC p) s = .next s ∧ exec (.longC1 p) s = .next s ∧ exec (.longC5 p) s = .next s ∧
    exec (.longC9 p) s = .next s ∧ exec (.longCD p) s = .next s ∧ exec (.longC2 p) s = .next s ∧
    exec (.longC6 p) s = .next s ∧ exec (.longCA p) s = .next s ∧ exec (.longCE p) s = .next s ∧
    exec (.long81 p) s = .next s ∧ exec (.long82 p) s = .next s

/-- 40_command_front_end R104, R109: the command byte of a five-byte frame, alone, only starts its payload. -/
def Obligations.LongFormatCommandByte : Prop :=
  ∀ (s : State) (p b : Byte) (ts : List Turn) (rest : List Byte),
    configOk s.cfg = true → rxReady s = true → s.pstate = .cmd → s.sched = ⟨.hostByte, p⟩ :: ts → s.rxq = b :: rest →
    (b = 0x80 → step s = .next { s with sched := ts, portIn := p, rxq := rest, pstate := .divPay 0, pay := 0 }) ∧
    (b ∈ longOps → step s = .next { s with sched := ts, portIn := p, rxq := rest, pstate := .longPay 0 })

/-- 40_command_front_end R105: a divider byte lands in its eight bits of `pay`, least significant first, and the pad byte
applies the divider in `pay` whatever its own value; neither is classified as a command. -/
def Obligations.DividerPayloadByte : Prop :=
  ∀ (s : State) (p b : Byte) (ts : List Turn) (rest : List Byte) (n : Fin 4),
    configOk s.cfg = true → rxReady s = true → s.pstate = .divPay n → s.sched = ⟨.hostByte, p⟩ :: ts →
    s.rxq = b :: rest →
    (n < 3 → ∃ pay : Divider,
      (∀ j : Nat, j < 24 →
        pay.getLsbD j = if 8 * n.val ≤ j ∧ j < 8 * n.val + 8 then b.getLsbD (j - 8 * n.val) else s.pay.getLsbD j) ∧
      step s = .next { s with sched := ts, portIn := p, rxq := rest, pay := pay, pstate := .divPay (n + 1) }) ∧
    (n = 3 → step s = .next { s with
      sched := ts, portIn := p, rxq := rest, pstate := .cmd
      period := BitVec.ofNat 32 (s.cfg.timerClkHz / (s.cfg.refClkHz / (s.pay.toNat + 1)))
      hist := s.hist ++ [.tmrLoad (BitVec.ofNat 32 (s.cfg.timerClkHz / (s.cfg.refClkHz / (s.pay.toNat + 1))))] })

/-- 40_command_front_end R110: a payload byte of a LONG frame is counted and discarded, whatever its value. -/
def Obligations.LongPayloadByte : Prop :=
  ∀ (s : State) (p b : Byte) (ts : List Turn) (rest : List Byte) (n : Fin 4),
    configOk s.cfg = true → rxReady s = true → s.pstate = .longPay n → s.sched = ⟨.hostByte, p⟩ :: ts →
    s.rxq = b :: rest →
    (n < 3 → step s = .next { s with sched := ts, portIn := p, rxq := rest, pstate := .longPay (n + 1) }) ∧
    (n = 3 → step s = .next { s with sched := ts, portIn := p, rxq := rest, pstate := .cmd })

/-- 40_command_front_end R113: no turn but the host's and the platform's changes `pstate` or `pay`. -/
def Obligations.ParseStateOnlyByHostOrReset : Prop :=
  ∀ (s t : State) (u : Turn) (ts : List Turn), s.sched = u :: ts → step s = .next t →
    u.agent ≠ .hostByte → u.agent ≠ .hostFrame → u.agent ≠ .platform → t.pstate = s.pstate ∧ t.pay = s.pay

/-- 40_command_front_end R112: the enabling and the effect of the gate, the timer, the drain and the encoder do not read
`pstate` or `pay`: a frame that has stopped half-way blocks none of them. -/
def Obligations.StalledFrameBlocksNoOtherAgent : Prop :=
  ∀ (i : Instr) (s t : State) (q : PState) (x : Divider),
    i = .gateStep ∨ i = .tick ∨ i = .drainStep ∨ i = .hostDone → exec i s = .next t →
    exec i { s with pstate := q, pay := x } = .next { t with pstate := q, pay := x }

/-- 40_command_front_end R108: HOST_DONE clears `hbusy` and nothing else, in any capture state. -/
def Obligations.HostDoneClearsBusy : Prop :=
  ∀ s : State, configOk s.cfg = true → s.hbusy = true → exec .hostDone s = .next { s with hbusy := false }

/-! ### The trigger gate -/

/-- 41_trigger_gate R132 (with R131's comparator as plain inequality): a gate iteration resolves on any difference,
without counting down; with no difference it counts down and resolves at zero. -/
def Obligations.GateStepComparesThenCounts : Prop :=
  ∀ s : State, configOk s.cfg = true → s.fsm = .gating → 1 ≤ s.gcnt.toNat →
    (s.portIn ≠ s.gref → exec .gateStep s = .next { s with
      fsm := .sampling, tmrIe := true, tmrRun := true, hist := s.hist ++ [.tmrStart] }) ∧
    (s.portIn = s.gref → s.gcnt = 1 → exec .gateStep s = .next { s with
      gcnt := 0, fsm := .sampling, tmrIe := true, tmrRun := true, hist := s.hist ++ [.tmrStart] }) ∧
    (s.portIn = s.gref → 2 ≤ s.gcnt.toNat → ∃ c : Word, c.toNat = s.gcnt.toNat - 1 ∧
      exec .gateStep s = .next { s with gcnt := c })

/-- 41_trigger_gate R131: the comparator fires exactly when some bit differs. -/
def Obligations.ComparatorIsAnyBitDiffers : Prop :=
  ∀ p r : Byte, changed p r = true ↔ ∃ j : Nat, j < 8 ∧ p.getLsbD j ≠ r.getLsbD j

/-- 41_trigger_gate R134, first part: whatever the port shows and whatever else happens, a gate with countdown n resolves
into a capture by its n-th GATE_STEP at the latest, if no device reset comes first. -/
def Obligations.GateResolvesWithinItsBudget : Prop :=
  ∀ (s : State) (ts rest : List Turn), configOk s.cfg = true → s.fsm = .gating → 1 ≤ s.gcnt.toNat →
    s.sched = ts ++ rest → NoReset ts → (portsOf .gateSequencer ts).length = s.gcnt.toNat →
    ∃ k t, k ≤ ts.length ∧ steps k s = .next t ∧ t.fsm = .sampling ∧ t.tmrRun = true ∧ t.tmrIe = true

/-- 41_trigger_gate R134, second part: with no change seen the gate resolves at exactly its n-th GATE_STEP, with `gcnt`
0, and before that it is still GATING. -/
def Obligations.GateTimesOutAtItsBudget : Prop :=
  ∀ (s : State) (ts rest : List Turn) (p : Byte), configOk s.cfg = true → s.fsm = .gating →
    s.sched = ts ++ ⟨.gateSequencer, p⟩ :: rest → NoReset ts → p = s.gref →
    (∀ q ∈ portsOf .gateSequencer ts, q = s.gref) → (portsOf .gateSequencer ts).length + 1 = s.gcnt.toNat →
    ∃ t u, steps ts.length s = .next t ∧ t.fsm = .gating ∧ t.gcnt = 1 ∧
      steps (ts.length + 1) s = .next u ∧ u.fsm = .sampling ∧ u.gcnt = 0

/-! ### The ring controller -/

/-- 42_ring_controller R152, R153, R154: a TICK in SAMPLING writes the port value at `idx` and at no other index; it
advances `idx`, or when that filled the buffer it stops and masks the timer, clears both indices and enters
DRAINING. -/
def Obligations.TickStoresOneSample : Prop :=
  ∀ s : State, configOk s.cfg = true → s.fsm = .sampling → s.tmrIe = true → s.idx.toNat < s.cfg.bufferSize →
    ∃ m : Memory, (∀ j : Nat, bufByte { s with buf := m } j = if j = s.idx.toNat then s.portIn else bufByte s j) ∧
      (s.idx.toNat + 1 ≠ s.cfg.bufferSize → ∃ k : Word, k.toNat = s.idx.toNat + 1 ∧
        exec .tick s = .next { s with buf := m, idx := k }) ∧
      (s.idx.toNat + 1 = s.cfg.bufferSize → exec .tick s = .next { s with
        buf := m, tmrRun := false, tmrIe := false, hist := s.hist ++ [.tmrStop], idx := 0, dptr := 0,
        fsm := .draining })

/-- 42_ring_controller R155: a TICK while `tmr_ie` = 0 changes nothing. -/
def Obligations.MaskedTickIsDropped : Prop :=
  ∀ s : State, configOk s.cfg = true → s.tmrIe = false → exec .tick s = .next s

/-- 42_ring_controller R156, R157: a DRAIN_STEP sends `buf[dptr]` and advances `dptr`; the last one returns to IDLE. -/
def Obligations.DrainStepSendsOneByte : Prop :=
  ∀ s : State, configOk s.cfg = true → s.fsm = .draining → s.dptr.toNat < s.cfg.bufferSize →
    (s.dptr.toNat + 1 = s.cfg.bufferSize → exec .drainStep s = .next { s with
      hist := s.hist ++ [.tx (bufByte s s.dptr.toNat)], dptr := 0, fsm := .idle }) ∧
    (s.dptr.toNat + 1 ≠ s.cfg.bufferSize → ∃ k : Word, k.toNat = s.dptr.toNat + 1 ∧
      exec .drainStep s = .next { s with hist := s.hist ++ [.tx (bufByte s s.dptr.toNat)], dptr := k })

/-- 00_scope R13, 30_encoding R70: an event that is not enabled does not happen; in the model its agent's turn passes and
changes nothing (log 4). -/
def Obligations.EventsNotEnabledWait : Prop :=
  ∀ s : State, configOk s.cfg = true →
    (s.fsm ≠ .gating → exec .gateStep s = .next s) ∧ (s.fsm ≠ .draining → exec .drainStep s = .next s) ∧
    (s.hbusy = false → exec .hostDone s = .next s)

/-- 42_ring_controller R151: the buffer is written exactly by a TICK with the interrupt enabled in SAMPLING, and then at
`idx` only; every other instruction but device reset leaves every element as it was. -/
def Obligations.OnlyAnEnabledTickWritesTheBuffer : Prop :=
  ∀ (i : Instr) (s t : State) (j : Nat), exec i s = .next t → i ≠ .rst → bufByte t j ≠ bufByte s j →
    i = .tick ∧ s.tmrIe = true ∧ s.fsm = .sampling ∧ j = s.idx.toNat

/-- 42_ring_controller R158: SAMPLING ends only by the full tick, or by device reset; no command ends it. -/
def Obligations.SamplingEndsOnlyWhenFull : Prop :=
  ∀ (s t : State) (u : Turn) (ts : List Turn), s.fsm = .sampling → s.sched = u :: ts → step s = .next t →
    t.fsm ≠ .sampling →
    u.agent = .platform ∨
    (u.agent = .sampleTimer ∧ s.tmrIe = true ∧ s.idx.toNat + 1 = s.cfg.bufferSize ∧ t.fsm = .draining)

/-- 20_memory R58, R64 and 42_ring_controller R159, first half: from the start of a capture, whatever other agents do in
between, the tick that makes BUFFERSIZE ticks enters DRAINING with element k the port value of the k-th tick. -/
def Obligations.CaptureFillsTheBufferInTickOrder : Prop :=
  ∀ (s : State) (ts rest : List Turn) (p : Byte),
    configOk s.cfg = true → s.fsm = .sampling → s.tmrIe = true → s.idx = 0 →
    s.sched = ts ++ ⟨.sampleTimer, p⟩ :: rest → NoReset ts →
    (portsOf .sampleTimer ts).length + 1 = s.cfg.bufferSize →
    ∃ t, steps (ts.length + 1) s = .next t ∧ t.fsm = .draining ∧ t.idx = 0 ∧ t.dptr = 0 ∧
      t.tmrRun = false ∧ t.tmrIe = false ∧ t.sched = rest ∧ t.cfg = s.cfg ∧
      ∀ k : Nat, k < s.cfg.bufferSize → some (bufByte t k) = (portsOf .sampleTimer ts ++ [p])[k]?

/-- 42_ring_controller R156, R157, R159, second half, and 20_memory R59: from the start of a drain, whatever other agents
do in between, the drain step that makes BUFFERSIZE drain steps returns to IDLE, and the events recorded since are
exactly the buffer's elements in ascending order. -/
def Obligations.DrainSendsTheBufferInOrder : Prop :=
  ∀ (s : State) (ts rest : List Turn) (p : Byte),
    configOk s.cfg = true → s.fsm = .draining → s.tmrIe = false → s.dptr = 0 →
    s.sched = ts ++ ⟨.transmitSide, p⟩ :: rest → NoReset ts →
    (portsOf .transmitSide ts).length + 1 = s.cfg.bufferSize →
    ∃ t, steps (ts.length + 1) s = .next t ∧ t.fsm = .idle ∧ t.dptr = 0 ∧
      t.hist = s.hist ++ (List.range s.cfg.bufferSize).map fun k => .tx (bufByte s k)

/-- 42_ring_controller R159: one capture cycle, under any interleaving: BUFFERSIZE ticks, then BUFFERSIZE drain steps,
and the k-th byte sent is the port value the k-th tick read. -/
def Obligations.CycleStreamsTheSamplesInOrder : Prop :=
  ∀ (s : State) (ts ds rest : List Turn) (p q : Byte),
    configOk s.cfg = true → s.fsm = .sampling → s.tmrIe = true → s.idx = 0 →
    s.sched = ts ++ ⟨.sampleTimer, p⟩ :: (ds ++ ⟨.transmitSide, q⟩ :: rest) → NoReset ts → NoReset ds →
    (portsOf .sampleTimer ts).length + 1 = s.cfg.bufferSize →
    (portsOf .transmitSide ds).length + 1 = s.cfg.bufferSize →
    ∃ t u, steps (ts.length + 1) s = .next t ∧ t.fsm = .draining ∧
      steps (ds.length + 1) t = .next u ∧ u.fsm = .idle ∧ u.dptr = 0 ∧
      u.hist = t.hist ++ (portsOf .sampleTimer ts ++ [p]).map .tx

/-- 60_exceptions R205 and 95_test_vectors V26: in SAMPLING a tick and a host byte may come in either order; the buffer
they leave is the same, and so is the whole state when the tick is not the full one (the port level, an input, aside). -/
def Obligations.TickAndByteCommute : Prop :=
  ∀ (s : State) (p q : Byte) (ts : List Turn),
    configOk s.cfg = true → s.fsm = .sampling → s.tmrIe = true → s.idx.toNat < s.cfg.bufferSize →
    ∃ t u, steps 2 { s with sched := ⟨.sampleTimer, p⟩ :: ⟨.hostByte, q⟩ :: ts } = .next t ∧
      steps 2 { s with sched := ⟨.hostByte, q⟩ :: ⟨.sampleTimer, p⟩ :: ts } = .next u ∧ t.buf = u.buf ∧
      (s.idx.toNat + 1 ≠ s.cfg.bufferSize → { t with portIn := p } = { u with portIn := p })

/-! ### The divider -/

/-- 44_divider R182: on a legal configuration both quotients of every 24-bit divider are in range, so nothing divides by
zero and PERIOD holds the exact period. -/
def Obligations.PeriodOfEveryDividerFits : Prop :=
  ∀ (c : Config) (x : Divider), configOk c = true →
    1 ≤ rate c x.toNat ∧ rate c x.toNat ≤ c.refClkHz ∧ (rate c x.toNat = c.refClkHz ↔ x = 0) ∧
    1 ≤ periodOf c x.toNat ∧ periodOf c x.toNat ≤ c.timerClkHz ∧ c.timerClkHz ≤ 2 ^ 32 - 1 ∧
    (BitVec.ofNat 32 (periodOf c x.toNat)).toNat = periodOf c x.toNat

/-- 44_divider R185: a larger divider never gives a shorter period. -/
def Obligations.PeriodIsMonotone : Prop :=
  ∀ (c : Config) (x y : Divider), configOk c = true → x.toNat ≤ y.toNat →
    rate c y.toNat ≤ rate c x.toNat ∧ periodOf c x.toNat ≤ periodOf c y.toNat

/-- 44_divider R184: divider 0 gives the maximum rate. -/
def Obligations.DividerZeroIsTheMaximumRate : Prop :=
  ∀ c : Config, rate c 0 = c.refClkHz ∧ periodOf c 0 = c.timerClkHz / c.refClkHz ∧
    (configOk c = true → ∀ x : Divider, rate c x.toNat ≤ rate c 0)

/-- 44_divider R186: with matched clocks and x + 1 dividing REF_CLK_HZ the period is exactly x + 1; the worked case where
it is not. -/
def Obligations.PeriodIsExactWhenItDivides : Prop :=
  (∀ (c : Config) (x : Divider), configOk c = true → c.refClkHz = c.timerClkHz → (x.toNat + 1) ∣ c.refClkHz →
    periodOf c x.toNat = x.toNat + 1) ∧
  (∀ c : Config, c.refClkHz = 100000000 → c.timerClkHz = 100000000 →
    rate c (2 ^ 24 - 1) = 5 ∧ periodOf c (2 ^ 24 - 1) = 20000000)

/-- 44_divider R187: PERIOD changes only by an accepted pad byte of a SET_DIVIDER frame or by device reset, over every turn
that is not a whole frame: a frame turn whose channel holds no whole frame is covered here (it delivers one byte, log 7),
and one that delivers a whole frame is its byte turns (FrameTurnIsItsByteTurns). -/
def Obligations.PeriodWrittenOnlyByThePadByte : Prop :=
  ∀ (s t : State) (u : Turn) (ts : List Turn), s.sched = u :: ts →
    (u.agent = .hostFrame → ∃ e, decode s.rxq = .error e) → step s = .next t → t.period ≠ s.period →
    u.agent = .platform ∨
    ((u.agent = .hostByte ∨ u.agent = .hostFrame) ∧ s.pstate = .divPay 3 ∧ rxReady s = true ∧ s.rxq ≠ [])

/-! ### Reset, configuration, faults -/

/-- 70_reset_and_hazards R230, 10_state R39, R40: device reset, in every state, puts every register at its reset value,
empties the event history and leaves the configuration; every element of the buffer is a free value of a new reset (the
counter that numbers resets is the model's, log 8). -/
def Obligations.DeviceResetSetsEveryRegister : Prop :=
  ∀ s : State, configOk s.cfg = true → ∃ t, exec .rst s = .next t ∧
    t.fsm = .idle ∧ t.period = BitVec.ofNat 32 (s.cfg.timerClkHz / s.cfg.refClkHz) ∧ t.tmrRun = false ∧
    t.tmrIe = false ∧ t.idx = 0 ∧ t.dptr = 0 ∧ t.gref = 0 ∧ t.gcnt = 0 ∧ t.pstate = .cmd ∧ t.pay = 0 ∧
    t.hbusy = false ∧ t.hist = [] ∧ t.cfg = s.cfg ∧ rxReady t = true ∧
    (∀ j : Nat, bufByte t j = Config.freeBufferByte (s.bufEpoch + 1) j)

/-- 10_state R39: the registers right after reset, under any configuration; `State.reset` takes the example configuration
of the model (log 1). -/
def Obligations.ResetStateHoldsTheResetValues : Prop :=
  State.reset = State.resetWith exampleConfig ∧
  ∀ c : Config,
    (State.resetWith c).fsm = .idle ∧ (State.resetWith c).period = BitVec.ofNat 32 (c.timerClkHz / c.refClkHz) ∧
    (State.resetWith c).tmrRun = false ∧ (State.resetWith c).tmrIe = false ∧ (State.resetWith c).idx = 0 ∧
    (State.resetWith c).dptr = 0 ∧ (State.resetWith c).gref = 0 ∧ (State.resetWith c).gcnt = 0 ∧
    (State.resetWith c).pstate = .cmd ∧ (State.resetWith c).pay = 0 ∧ (State.resetWith c).hbusy = false ∧
    (State.resetWith c).hist = [] ∧ (State.resetWith c).cfg = c

/-- 00_scope R6, R15: exactly a configuration outside the constraints is refused. R6 and R15 give such a configuration no
meaning; that therefore every instruction and every step refuses it, even one that would change nothing, is the model's
reading (log 2). -/
def Obligations.OnlyABadConfigurationIsRefused : Prop :=
  (∀ c : Config, configOk c = true ↔
    1 ≤ c.bufferSize ∧ c.bufferSize ≤ 2 ^ 32 - 1 ∧ 2 ^ 24 ≤ c.refClkHz ∧ c.refClkHz ≤ c.timerClkHz ∧
    c.timerClkHz ≤ 2 ^ 32 - 1 ∧ c.gateTimeout ≤ 2 ^ 32 - 1) ∧
  (∀ (i : Instr) (s : State), configOk s.cfg = false → exec i s = .refused .badConfiguration) ∧
  (∀ s : State, configOk s.cfg = false → step s = .refused .badConfiguration) ∧
  (∀ (i : Instr) (s : State) (r : Refusal), configOk s.cfg = true → exec i s ≠ .refused r) ∧
  (∀ (s : State) (r : Refusal), configOk s.cfg = true → step s ≠ .refused r)

/-- 20_memory R53, 60_exceptions R202: the one fault is a buffer access at or above BUFFERSIZE, by an enabled TICK or an
enabled DRAIN_STEP (that the assertion the spec allows is stated as a fault is the model's, log 9). -/
def Obligations.OnlyAnIndexOutsideTheBufferFaults : Prop :=
  ∀ (i : Instr) (s : State), configOk s.cfg = true →
    (exec i s = .fault .bufferIndex ↔
      (i = .tick ∧ s.tmrIe = true ∧ s.fsm = .sampling ∧ s.cfg.bufferSize ≤ s.idx.toNat) ∨
      (i = .drainStep ∧ s.fsm = .draining ∧ s.cfg.bufferSize ≤ s.dptr.toNat))

/-- 10_state R23, R24, R32, 20_memory R64: the machine's invariant is kept by every step. -/
def Obligations.EveryStepKeepsTheMachineInvariant : Prop :=
  ∀ s t : State, Inv s → step s = .next t → Inv t

/-- The invariant holds right after reset, under every legal configuration and in `State.reset`. -/
def Obligations.ResetStateMeetsTheMachineInvariant : Prop :=
  (∀ c : Config, configOk c = true → Inv (State.resetWith c)) ∧ Inv State.reset

/-- 00_scope R15, 20_memory R53, 60_exceptions R200: in every state that meets the invariant every step completes: no
refusal and no fault (a step without a turn to come, and a turn whose event is not enabled, complete by waiting: the
model's choice, log 3 and log 4). -/
def Obligations.EveryStepCompletes : Prop :=
  ∀ s : State, Inv s → ∃ t, step s = .next t

/-- 10_state R40: no step changes the configuration. -/
def Obligations.ConfigurationNeverChanges : Prop :=
  ∀ s t : State, step s = .next t → t.cfg = s.cfg

/-- The frame of the inputs: no instruction changes the port level or the turns to come, and no event changes the bytes
in the channel (the model's division into block and environment, log 6). -/
def Obligations.InstructionsLeaveTheInputs : Prop :=
  ∀ (i : Instr) (s t : State), exec i s = .next t →
    t.portIn = s.portIn ∧ t.sched = s.sched ∧ (i.isFrame = false → t.rxq = s.rxq)

/-- 10_state R37, 20_memory R59: the event history only grows, except at device reset, and a TX byte is recorded only by
the transmit side's turn in DRAINING: the byte at `dptr`, alone. -/
def Obligations.HistoryOnlyGrows : Prop :=
  ∀ (s t : State) (u : Turn) (ts : List Turn), s.sched = u :: ts → u.agent ≠ .platform → step s = .next t →
    ∃ es, t.hist = s.hist ++ es ∧
      ∀ b, OutEvent.tx b ∈ es → u.agent = .transmitSide ∧ s.fsm = .draining ∧ es = [.tx (bufByte s s.dptr.toNat)]

/-- 10_state R38, R24, R25: the output levels. R38 gives `tx_data` only together with `tx_valid` = 1; that it is
`buf[dptr]` outside DRAINING too is the model's choice (log 17). -/
def Obligations.OutputLevels : Prop :=
  ∀ s : State, ((levels s).txValid = true ↔ s.fsm = .draining) ∧ (levels s).txData = bufByte s s.dptr.toNat ∧
    (levels s).tmrPeriod = s.period ∧ (levels s).tmrRun = s.tmrRun ∧ (levels s).rxReady = rxReady s

/-- 10_state R22, R31: the encodings of `fsm` (0 to 3) and `pstate` (0 to 8); each value has a code of its own. -/
def Obligations.StateEncodings : Prop :=
  Fsm.idle.bits = 0 ∧ Fsm.gating.bits = 1 ∧ Fsm.sampling.bits = 2 ∧ Fsm.draining.bits = 3 ∧
  PState.cmd.bits = 0 ∧ (∀ n : Fin 4, (PState.divPay n).bits.toNat = 1 + n.val) ∧
  (∀ n : Fin 4, (PState.longPay n).bits.toNat = 5 + n.val) ∧
  (∀ a b : Fsm, a.bits = b.bits → a = b) ∧ (∀ a b : PState, a.bits = b.bits → a = b)

/-- 40_command_front_end R114 (a duty of the environment, log 12): the replies of the Protocol Encoder. -/
def Obligations.EncoderReplyLayout : Prop :=
  ∀ (c : Config) (m : Metadata),
    encoderReply c m 0x02 = some [0x31, 0x41, 0x4C, 0x53] ∧
    ∃ size rate : List Byte, size.length = 4 ∧ rate.length = 4 ∧
      size.foldl (fun n b => 256 * n + b.toNat) 0 = c.bufferSize % 2 ^ 32 ∧
      rate.foldl (fun n b => 256 * n + b.toNat) 0 = m.maxRate.toNat ∧
      encoderReply c m 0x04 = some ([0x01] ++ m.name ++ [0x00, 0x21] ++ size ++ [0x23] ++ rate ++
        [0x40, 0x08, 0x41, 0x02, 0x00])
end

