-- ==== Sys2Proof/Laws/Decode.lean ====
section
/-! SUPPORT. The divider's bytes, and what the rows of the opcode map say of a first byte. -/

namespace Sys2Proof

/-- The three divider bytes put a divider together again (30_encoding R73). -/
theorem assembleDivider_dividerByte (x : Divider) :
    assembleDivider (dividerByte x 0) (dividerByte x 1) (dividerByte x 2) = x := by
  apply BitVec.eq_of_getLsbD_eq
  intro i hi
  simp only [assembleDivider, dividerByte, BitVec.getLsbD_append, BitVec.getLsbD_extractLsb']
  interval_cases i <;> simp

@[simp] theorem dividerByte_assemble_0 (p0 p1 p2 : Byte) : dividerByte (assembleDivider p0 p1 p2) 0 = p0 := by
  apply BitVec.eq_of_getLsbD_eq
  intro i hi
  simp only [assembleDivider, dividerByte, BitVec.getLsbD_append, BitVec.getLsbD_extractLsb']
  interval_cases i <;> simp

@[simp] theorem dividerByte_assemble_1 (p0 p1 p2 : Byte) : dividerByte (assembleDivider p0 p1 p2) 1 = p1 := by
  apply BitVec.eq_of_getLsbD_eq
  intro i hi
  simp only [assembleDivider, dividerByte, BitVec.getLsbD_append, BitVec.getLsbD_extractLsb']
  interval_cases i <;> simp

@[simp] theorem dividerByte_assemble_2 (p0 p1 p2 : Byte) : dividerByte (assembleDivider p0 p1 p2) 2 = p2 := by
  apply BitVec.eq_of_getLsbD_eq
  intro i hi
  simp only [assembleDivider, dividerByte, BitVec.getLsbD_append, BitVec.getLsbD_extractLsb']
  interval_cases i <;> simp

/-- A well-formed UNRECOGNIZED value stands in no other row. -/
theorem lookup_unrecognized : ∀ op : Byte, (Instr.unrecognized op).wellFormed = true →
    (shortRows.lookup op).isNone = true ∧ (longRows.lookup op).isNone = true := by
  decide

/-- A value in no row is a well-formed UNRECOGNIZED value. -/
theorem wellFormed_of_no_row : ∀ op : Byte, shortRows.lookup op = none → (longRows.lookup op).isNone = true →
    (Instr.unrecognized op).wellFormed = true := by
  decide

/-- A well-formed UNRECOGNIZED value has that class. -/
theorem classify_unrecognized : ∀ op : Byte, (Instr.unrecognized op).wellFormed = true →
    classify op = .unrecognized := by
  decide

/-- What a one-byte row says. -/
theorem shortRows_lookup : ∀ (op : Byte) (i : Instr), shortRows.lookup op = some i →
    encode i = [op] ∧ i.wellFormed = true ∧ i.isFrame = true := by
  decide +revert

/-- What a five-byte row says. -/
theorem longRows_lookup {op : Byte} {mk : Payload → Instr} (h : longRows.lookup op = some mk) (p : Payload) :
    encode (mk p) = longFrame op p ∧ (mk p).wellFormed = true ∧ (mk p).isFrame = true := by
  simp only [longRows, List.lookup] at h
  repeat' split at h
  all_goals first
    | (simp only [beq_iff_eq] at *; subst_vars; cases h; refine ⟨?_, rfl, rfl⟩; first | rfl | simp [encode, longFrame])
    | cases h

/-- The decoder reads frames only, never events. -/
theorem decode_isFrame {bs rest : List Byte} {i : Instr} (h : decode bs = .ok (i, rest)) : i.isFrame = true := by
  cases bs with
  | nil => cases h
  | cons op bs =>
    simp only [decode] at h
    split at h
    · next h1 => cases h; exact (shortRows_lookup op _ h1).2.2
    · next h2 =>
      split at h
      · cases h; exact (longRows_lookup h2 _).2.2
      · cases h
    · cases h; rfl

end Sys2Proof
end

