-- ==== Sys2Proof/Laws/State.lean ====
section
/-! SUPPORT. One lemma per field per state update, so that no proof unfolds a record update. -/

namespace Sys2Proof.Machine

variable (s : State)

/-! ### `emit` -/

@[simp] theorem emit_fsm (e : OutEvent) : (emit e s).fsm = s.fsm := rfl
@[simp] theorem emit_period (e : OutEvent) : (emit e s).period = s.period := rfl
@[simp] theorem emit_tmrRun (e : OutEvent) : (emit e s).tmrRun = s.tmrRun := rfl
@[simp] theorem emit_tmrIe (e : OutEvent) : (emit e s).tmrIe = s.tmrIe := rfl
@[simp] theorem emit_idx (e : OutEvent) : (emit e s).idx = s.idx := rfl
@[simp] theorem emit_dptr (e : OutEvent) : (emit e s).dptr = s.dptr := rfl
@[simp] theorem emit_gref (e : OutEvent) : (emit e s).gref = s.gref := rfl
@[simp] theorem emit_gcnt (e : OutEvent) : (emit e s).gcnt = s.gcnt := rfl
@[simp] theorem emit_pstate (e : OutEvent) : (emit e s).pstate = s.pstate := rfl
@[simp] theorem emit_pay (e : OutEvent) : (emit e s).pay = s.pay := rfl
@[simp] theorem emit_hbusy (e : OutEvent) : (emit e s).hbusy = s.hbusy := rfl
@[simp] theorem emit_buf (e : OutEvent) : (emit e s).buf = s.buf := rfl
@[simp] theorem emit_hist (e : OutEvent) : (emit e s).hist = s.hist ++ [e] := rfl
@[simp] theorem emit_bufEpoch (e : OutEvent) : (emit e s).bufEpoch = s.bufEpoch := rfl
@[simp] theorem emit_cfg (e : OutEvent) : (emit e s).cfg = s.cfg := rfl
@[simp] theorem emit_portIn (e : OutEvent) : (emit e s).portIn = s.portIn := rfl
@[simp] theorem emit_rxq (e : OutEvent) : (emit e s).rxq = s.rxq := rfl
@[simp] theorem emit_sched (e : OutEvent) : (emit e s).sched = s.sched := rfl

/-! ### `capStart` -/

@[simp] theorem capStart_fsm : (capStart s).fsm = .sampling := rfl
@[simp] theorem capStart_period : (capStart s).period = s.period := rfl
@[simp] theorem capStart_tmrRun : (capStart s).tmrRun = true := rfl
@[simp] theorem capStart_tmrIe : (capStart s).tmrIe = true := rfl
@[simp] theorem capStart_idx : (capStart s).idx = s.idx := rfl
@[simp] theorem capStart_dptr : (capStart s).dptr = s.dptr := rfl
@[simp] theorem capStart_gref : (capStart s).gref = s.gref := rfl
@[simp] theorem capStart_gcnt : (capStart s).gcnt = s.gcnt := rfl
@[simp] theorem capStart_pstate : (capStart s).pstate = s.pstate := rfl
@[simp] theorem capStart_pay : (capStart s).pay = s.pay := rfl
@[simp] theorem capStart_hbusy : (capStart s).hbusy = s.hbusy := rfl
@[simp] theorem capStart_buf : (capStart s).buf = s.buf := rfl
@[simp] theorem capStart_hist : (capStart s).hist = s.hist ++ [.tmrStart] := rfl
@[simp] theorem capStart_bufEpoch : (capStart s).bufEpoch = s.bufEpoch := rfl
@[simp] theorem capStart_cfg : (capStart s).cfg = s.cfg := rfl
@[simp] theorem capStart_portIn : (capStart s).portIn = s.portIn := rfl
@[simp] theorem capStart_rxq : (capStart s).rxq = s.rxq := rfl
@[simp] theorem capStart_sched : (capStart s).sched = s.sched := rfl

/-! ### `enterDrain` -/

@[simp] theorem enterDrain_fsm : (enterDrain s).fsm = .draining := rfl
@[simp] theorem enterDrain_period : (enterDrain s).period = s.period := rfl
@[simp] theorem enterDrain_tmrRun : (enterDrain s).tmrRun = false := rfl
@[simp] theorem enterDrain_tmrIe : (enterDrain s).tmrIe = false := rfl
@[simp] theorem enterDrain_idx : (enterDrain s).idx = 0 := rfl
@[simp] theorem enterDrain_dptr : (enterDrain s).dptr = 0 := rfl
@[simp] theorem enterDrain_gref : (enterDrain s).gref = s.gref := rfl
@[simp] theorem enterDrain_gcnt : (enterDrain s).gcnt = s.gcnt := rfl
@[simp] theorem enterDrain_pstate : (enterDrain s).pstate = s.pstate := rfl
@[simp] theorem enterDrain_pay : (enterDrain s).pay = s.pay := rfl
@[simp] theorem enterDrain_hbusy : (enterDrain s).hbusy = s.hbusy := rfl
@[simp] theorem enterDrain_buf : (enterDrain s).buf = s.buf := rfl
@[simp] theorem enterDrain_hist : (enterDrain s).hist = s.hist ++ [.tmrStop] := rfl
@[simp] theorem enterDrain_bufEpoch : (enterDrain s).bufEpoch = s.bufEpoch := rfl
@[simp] theorem enterDrain_cfg : (enterDrain s).cfg = s.cfg := rfl
@[simp] theorem enterDrain_portIn : (enterDrain s).portIn = s.portIn := rfl
@[simp] theorem enterDrain_rxq : (enterDrain s).rxq = s.rxq := rfl
@[simp] theorem enterDrain_sched : (enterDrain s).sched = s.sched := rfl

/-! ### `deviceReset` -/

@[simp] theorem deviceReset_fsm : (deviceReset s).fsm = .idle := rfl
@[simp] theorem deviceReset_period : (deviceReset s).period = BitVec.ofNat 32 (s.cfg.timerClkHz / s.cfg.refClkHz) := rfl
@[simp] theorem deviceReset_tmrRun : (deviceReset s).tmrRun = false := rfl
@[simp] theorem deviceReset_tmrIe : (deviceReset s).tmrIe = false := rfl
@[simp] theorem deviceReset_idx : (deviceReset s).idx = 0 := rfl
@[simp] theorem deviceReset_dptr : (deviceReset s).dptr = 0 := rfl
@[simp] theorem deviceReset_gref : (deviceReset s).gref = 0 := rfl
@[simp] theorem deviceReset_gcnt : (deviceReset s).gcnt = 0 := rfl
@[simp] theorem deviceReset_pstate : (deviceReset s).pstate = .cmd := rfl
@[simp] theorem deviceReset_pay : (deviceReset s).pay = 0 := rfl
@[simp] theorem deviceReset_hbusy : (deviceReset s).hbusy = false := rfl
@[simp] theorem deviceReset_buf : (deviceReset s).buf = [] := rfl
@[simp] theorem deviceReset_hist : (deviceReset s).hist = [] := rfl
@[simp] theorem deviceReset_bufEpoch : (deviceReset s).bufEpoch = s.bufEpoch + 1 := rfl
@[simp] theorem deviceReset_cfg : (deviceReset s).cfg = s.cfg := rfl
@[simp] theorem deviceReset_portIn : (deviceReset s).portIn = s.portIn := rfl
@[simp] theorem deviceReset_rxq : (deviceReset s).rxq = s.rxq := rfl
@[simp] theorem deviceReset_sched : (deviceReset s).sched = s.sched := rfl

/-! ### `divLoad` -/

@[simp] theorem divLoad_fsm (x : Divider) : (divLoad x s).fsm = s.fsm := rfl
@[simp] theorem divLoad_period (x : Divider) : (divLoad x s).period = BitVec.ofNat 32 (periodOf s.cfg x.toNat) := rfl
@[simp] theorem divLoad_tmrRun (x : Divider) : (divLoad x s).tmrRun = s.tmrRun := rfl
@[simp] theorem divLoad_tmrIe (x : Divider) : (divLoad x s).tmrIe = s.tmrIe := rfl
@[simp] theorem divLoad_idx (x : Divider) : (divLoad x s).idx = s.idx := rfl
@[simp] theorem divLoad_dptr (x : Divider) : (divLoad x s).dptr = s.dptr := rfl
@[simp] theorem divLoad_gref (x : Divider) : (divLoad x s).gref = s.gref := rfl
@[simp] theorem divLoad_gcnt (x : Divider) : (divLoad x s).gcnt = s.gcnt := rfl
@[simp] theorem divLoad_pstate (x : Divider) : (divLoad x s).pstate = s.pstate := rfl
@[simp] theorem divLoad_pay (x : Divider) : (divLoad x s).pay = s.pay := rfl
@[simp] theorem divLoad_hbusy (x : Divider) : (divLoad x s).hbusy = s.hbusy := rfl
@[simp] theorem divLoad_buf (x : Divider) : (divLoad x s).buf = s.buf := rfl
@[simp] theorem divLoad_hist (x : Divider) : (divLoad x s).hist = s.hist ++ [.tmrLoad (BitVec.ofNat 32 (periodOf s.cfg x.toNat))] := rfl
@[simp] theorem divLoad_bufEpoch (x : Divider) : (divLoad x s).bufEpoch = s.bufEpoch := rfl
@[simp] theorem divLoad_cfg (x : Divider) : (divLoad x s).cfg = s.cfg := rfl
@[simp] theorem divLoad_portIn (x : Divider) : (divLoad x s).portIn = s.portIn := rfl
@[simp] theorem divLoad_rxq (x : Divider) : (divLoad x s).rxq = s.rxq := rfl
@[simp] theorem divLoad_sched (x : Divider) : (divLoad x s).sched = s.sched := rfl

/-! ### `setDividerCommand` -/

@[simp] theorem setDividerCommand_fsm : (setDividerCommand s).fsm = s.fsm := rfl
@[simp] theorem setDividerCommand_period : (setDividerCommand s).period = s.period := rfl
@[simp] theorem setDividerCommand_tmrRun : (setDividerCommand s).tmrRun = s.tmrRun := rfl
@[simp] theorem setDividerCommand_tmrIe : (setDividerCommand s).tmrIe = s.tmrIe := rfl
@[simp] theorem setDividerCommand_idx : (setDividerCommand s).idx = s.idx := rfl
@[simp] theorem setDividerCommand_dptr : (setDividerCommand s).dptr = s.dptr := rfl
@[simp] theorem setDividerCommand_gref : (setDividerCommand s).gref = s.gref := rfl
@[simp] theorem setDividerCommand_gcnt : (setDividerCommand s).gcnt = s.gcnt := rfl
@[simp] theorem setDividerCommand_pstate : (setDividerCommand s).pstate = .divPay 0 := rfl
@[simp] theorem setDividerCommand_pay : (setDividerCommand s).pay = 0 := rfl
@[simp] theorem setDividerCommand_hbusy : (setDividerCommand s).hbusy = s.hbusy := rfl
@[simp] theorem setDividerCommand_buf : (setDividerCommand s).buf = s.buf := rfl
@[simp] theorem setDividerCommand_hist : (setDividerCommand s).hist = s.hist := rfl
@[simp] theorem setDividerCommand_bufEpoch : (setDividerCommand s).bufEpoch = s.bufEpoch := rfl
@[simp] theorem setDividerCommand_cfg : (setDividerCommand s).cfg = s.cfg := rfl
@[simp] theorem setDividerCommand_portIn : (setDividerCommand s).portIn = s.portIn := rfl
@[simp] theorem setDividerCommand_rxq : (setDividerCommand s).rxq = s.rxq := rfl
@[simp] theorem setDividerCommand_sched : (setDividerCommand s).sched = s.sched := rfl

/-! ### `longCommand` -/

@[simp] theorem longCommand_fsm : (longCommand s).fsm = s.fsm := rfl
@[simp] theorem longCommand_period : (longCommand s).period = s.period := rfl
@[simp] theorem longCommand_tmrRun : (longCommand s).tmrRun = s.tmrRun := rfl
@[simp] theorem longCommand_tmrIe : (longCommand s).tmrIe = s.tmrIe := rfl
@[simp] theorem longCommand_idx : (longCommand s).idx = s.idx := rfl
@[simp] theorem longCommand_dptr : (longCommand s).dptr = s.dptr := rfl
@[simp] theorem longCommand_gref : (longCommand s).gref = s.gref := rfl
@[simp] theorem longCommand_gcnt : (longCommand s).gcnt = s.gcnt := rfl
@[simp] theorem longCommand_pstate : (longCommand s).pstate = .longPay 0 := rfl
@[simp] theorem longCommand_pay : (longCommand s).pay = s.pay := rfl
@[simp] theorem longCommand_hbusy : (longCommand s).hbusy = s.hbusy := rfl
@[simp] theorem longCommand_buf : (longCommand s).buf = s.buf := rfl
@[simp] theorem longCommand_hist : (longCommand s).hist = s.hist := rfl
@[simp] theorem longCommand_bufEpoch : (longCommand s).bufEpoch = s.bufEpoch := rfl
@[simp] theorem longCommand_cfg : (longCommand s).cfg = s.cfg := rfl
@[simp] theorem longCommand_portIn : (longCommand s).portIn = s.portIn := rfl
@[simp] theorem longCommand_rxq : (longCommand s).rxq = s.rxq := rfl
@[simp] theorem longCommand_sched : (longCommand s).sched = s.sched := rfl

/-! ### `queryCommand` -/

@[simp] theorem queryCommand_fsm : (queryCommand s).fsm = s.fsm := rfl
@[simp] theorem queryCommand_period : (queryCommand s).period = s.period := rfl
@[simp] theorem queryCommand_tmrRun : (queryCommand s).tmrRun = s.tmrRun := rfl
@[simp] theorem queryCommand_tmrIe : (queryCommand s).tmrIe = s.tmrIe := rfl
@[simp] theorem queryCommand_idx : (queryCommand s).idx = s.idx := rfl
@[simp] theorem queryCommand_dptr : (queryCommand s).dptr = s.dptr := rfl
@[simp] theorem queryCommand_gref : (queryCommand s).gref = s.gref := rfl
@[simp] theorem queryCommand_gcnt : (queryCommand s).gcnt = s.gcnt := rfl
@[simp] theorem queryCommand_pstate : (queryCommand s).pstate = s.pstate := rfl
@[simp] theorem queryCommand_pay : (queryCommand s).pay = s.pay := rfl
@[simp] theorem queryCommand_hbusy : (queryCommand s).hbusy = true := rfl
@[simp] theorem queryCommand_buf : (queryCommand s).buf = s.buf := rfl
@[simp] theorem queryCommand_hist : (queryCommand s).hist = s.hist ++ [.hostReq 0x02] := rfl
@[simp] theorem queryCommand_bufEpoch : (queryCommand s).bufEpoch = s.bufEpoch := rfl
@[simp] theorem queryCommand_cfg : (queryCommand s).cfg = s.cfg := rfl
@[simp] theorem queryCommand_portIn : (queryCommand s).portIn = s.portIn := rfl
@[simp] theorem queryCommand_rxq : (queryCommand s).rxq = s.rxq := rfl
@[simp] theorem queryCommand_sched : (queryCommand s).sched = s.sched := rfl

/-! ### `getMetadataCommand` -/

@[simp] theorem getMetadataCommand_fsm : (getMetadataCommand s).fsm = s.fsm := rfl
@[simp] theorem getMetadataCommand_period : (getMetadataCommand s).period = s.period := rfl
@[simp] theorem getMetadataCommand_tmrRun : (getMetadataCommand s).tmrRun = s.tmrRun := rfl
@[simp] theorem getMetadataCommand_tmrIe : (getMetadataCommand s).tmrIe = s.tmrIe := rfl
@[simp] theorem getMetadataCommand_idx : (getMetadataCommand s).idx = s.idx := rfl
@[simp] theorem getMetadataCommand_dptr : (getMetadataCommand s).dptr = s.dptr := rfl
@[simp] theorem getMetadataCommand_gref : (getMetadataCommand s).gref = s.gref := rfl
@[simp] theorem getMetadataCommand_gcnt : (getMetadataCommand s).gcnt = s.gcnt := rfl
@[simp] theorem getMetadataCommand_pstate : (getMetadataCommand s).pstate = s.pstate := rfl
@[simp] theorem getMetadataCommand_pay : (getMetadataCommand s).pay = s.pay := rfl
@[simp] theorem getMetadataCommand_hbusy : (getMetadataCommand s).hbusy = true := rfl
@[simp] theorem getMetadataCommand_buf : (getMetadataCommand s).buf = s.buf := rfl
@[simp] theorem getMetadataCommand_hist : (getMetadataCommand s).hist = s.hist ++ [.hostReq 0x04] := rfl
@[simp] theorem getMetadataCommand_bufEpoch : (getMetadataCommand s).bufEpoch = s.bufEpoch := rfl
@[simp] theorem getMetadataCommand_cfg : (getMetadataCommand s).cfg = s.cfg := rfl
@[simp] theorem getMetadataCommand_portIn : (getMetadataCommand s).portIn = s.portIn := rfl
@[simp] theorem getMetadataCommand_rxq : (getMetadataCommand s).rxq = s.rxq := rfl
@[simp] theorem getMetadataCommand_sched : (getMetadataCommand s).sched = s.sched := rfl

/-! ### Commands without an effect -/

@[simp] theorem resetCommand_eq : resetCommand s = s := rfl
@[simp] theorem unrecognizedCommand_eq : unrecognizedCommand s = s := rfl
@[simp] theorem readPort_eq : readPort s = s.portIn := rfl

/-- A device reset puts the block's registers where `State.resetWith` has them and keeps the inputs. -/
theorem deviceReset_eq_resetWith :
    deviceReset s = { State.resetWith s.cfg with
      bufEpoch := s.bufEpoch + 1, portIn := s.portIn, rxq := s.rxq, sched := s.sched } := rfl

end Sys2Proof.Machine
end

