-- ==== Sys2Proof/Laws/Memory.lean ====
section
/-! SUPPORT. The laws of the capture buffer: read after write, writes elsewhere, and the canonical form. -/

namespace Sys2Proof.Machine

theorem Memory.get?_put_same (m : Memory) (i : Nat) (v : Byte) : (m.put i v).get? i = some v := by
  induction m with
  | nil => simp [Memory.put, Memory.get?]
  | cons c m ih =>
    obtain ⟨a, b⟩ := c
    simp only [Memory.put]
    split
    · simp [Memory.get?]
    · split
      · simp [Memory.get?]
      · next h => simp [Memory.get?, ih, Ne.symm h]

theorem Memory.get?_put_other (m : Memory) {i j : Nat} (v : Byte) (h : j ≠ i) : (m.put i v).get? j = m.get? j := by
  induction m with
  | nil => simp [Memory.put, Memory.get?, h.symm]
  | cons c m ih =>
    obtain ⟨a, b⟩ := c
    simp only [Memory.put]
    split
    · simp [Memory.get?, h.symm]
    · split
      · next h2 => subst h2; simp [Memory.get?, h.symm]
      · simp [Memory.get?, ih]

/-- Writing keeps the indices strictly rising. -/
theorem Memory.risingFrom_put {lo i : Nat} {m : Memory} (v : Byte) (hi : lo ≤ i) (h : Memory.risingFrom lo m = true) :
    Memory.risingFrom lo (m.put i v) = true := by
  induction m generalizing lo with
  | nil => simp [Memory.put, Memory.risingFrom, hi]
  | cons c m ih =>
    obtain ⟨a, b⟩ := c
    simp only [Memory.risingFrom, Bool.and_eq_true, decide_eq_true_eq] at h
    simp only [Memory.put]
    split
    · next h1 => simp [Memory.risingFrom, hi, h.2]; omega
    · split
      · next h2 => subst h2; simp [Memory.risingFrom, h]
      · next h1 h2 => simp [Memory.risingFrom, h.1, ih (by omega : a + 1 ≤ i) h.2]

/-- `MemWrite` keeps the canonical form. -/
theorem Memory.wf_put {m : Memory} (i : Nat) (v : Byte) (h : Memory.wf m = true) : Memory.wf (m.put i v) = true :=
  Memory.risingFrom_put v (Nat.zero_le i) h

/-- The entries after a write are the written one and old ones. -/
theorem Memory.mem_put {m : Memory} {i : Nat} {v : Byte} {c : Host.Cell} (h : c ∈ m.put i v) : c = (i, v) ∨ c ∈ m := by
  induction m with
  | nil => simpa [Memory.put] using h
  | cons d m ih =>
    obtain ⟨a, b⟩ := d
    simp only [Memory.put] at h
    split at h
    · simpa using h
    · split at h
      · simp only [List.mem_cons] at h ⊢
        tauto
      · simp only [List.mem_cons] at h ⊢
        tauto

@[simp] theorem Memory.wf_reset (c : Config) : Memory.wf (State.resetWith c).buf = true := rfl

/-- Reading after a write: the written value at its index, the old value elsewhere (20_memory R55, R58). -/
theorem bufByte_put (s : State) (i j : Nat) (v : Byte) :
    bufByte { s with buf := s.buf.put i v } j = if j = i then v else bufByte s j := by
  unfold bufByte
  split
  · next h => subst h; simp [Memory.get?_put_same]
  · next h => simp [Memory.get?_put_other _ v h]

/-- Everything `memWrite` can do. -/
theorem memWrite_ok_iff {i : Nat} {v : Byte} {s t : State} :
    memWrite i v s = .ok t ↔ i < s.cfg.bufferSize ∧ t = { s with buf := s.buf.put i v } := by
  unfold memWrite
  split <;> simp_all [eq_comm]

/-- Everything `memRead` can do. -/
theorem memRead_ok_iff {i : Nat} {b : Byte} {s : State} :
    memRead i s = .ok b ↔ i < s.cfg.bufferSize ∧ b = bufByte s i := by
  unfold memRead
  split <;> simp_all [eq_comm]

end Sys2Proof.Machine
end

