-- ==== Sys2Proof/Laws/Ops.lean ====
section
/-! SUPPORT. What each shared operation can do, said once: cite these instead of unfolding. -/

namespace Sys2Proof.Machine

theorem configOk_iff (c : Config) : configOk c = true ↔
    1 ≤ c.bufferSize ∧ c.bufferSize ≤ 2 ^ 32 - 1 ∧ 2 ^ 24 ≤ c.refClkHz ∧ c.refClkHz ≤ c.timerClkHz ∧
      c.timerClkHz ≤ 2 ^ 32 - 1 ∧ c.gateTimeout ≤ 2 ^ 32 - 1 := by
  simp only [configOk, Bool.and_eq_true, decide_eq_true_eq]
  tauto

@[simp] theorem whenConfigured_ok {s : State} (h : configOk s.cfg = true) (r : Result) : whenConfigured s r = r := by
  simp [whenConfigured, h]

@[simp] theorem whenConfigured_bad {s : State} (h : configOk s.cfg = false) (r : Result) :
    whenConfigured s r = .refused .badConfiguration := by
  simp [whenConfigured, h]

theorem whenConfigured_next {s t : State} {r : Result} (h : whenConfigured s r = .next t) :
    configOk s.cfg = true ∧ r = .next t := by
  unfold whenConfigured at h
  split at h
  · exact ⟨‹_›, h⟩
  · cases h

/-- The comparator says whether the two values differ (41_trigger_gate R131). -/
theorem changed_iff (p r : Byte) : changed p r = true ↔ p ≠ r := by
  simp [changed]

theorem rxReady_iff (s : State) : rxReady s = true ↔ (s.fsm = .idle ∨ s.fsm = .sampling) ∧ s.hbusy = false := by
  simp [rxReady]

theorem writeEnable_iff (s : State) : writeEnable s = true ↔ s.tmrIe = true ∧ s.fsm = .sampling := by
  simp [writeEnable]

/-- Everything TICK can do when it answers a next state. -/
theorem execTick_cases {s t : State} (h : execTick s = .next t) :
    configOk s.cfg = true ∧
    ((writeEnable s = false ∧ t = s) ∨
     (writeEnable s = true ∧ s.idx.toNat < s.cfg.bufferSize ∧ full s = false ∧
       t = { s with buf := s.buf.put s.idx.toNat s.portIn, idx := s.idx + 1 }) ∨
     (writeEnable s = true ∧ s.idx.toNat < s.cfg.bufferSize ∧ full s = true ∧
       t = enterDrain { s with buf := s.buf.put s.idx.toNat s.portIn })) := by
  obtain ⟨hc, h⟩ := whenConfigured_next h
  refine ⟨hc, ?_⟩
  split at h
  · next hw =>
    unfold takeSample at h
    split at h
    · next s1 hm =>
      obtain ⟨hi, rfl⟩ := memWrite_ok_iff.1 hm
      cases h
      cases hf : full s
      · exact .inr (.inl ⟨hw, hi, rfl, by simp⟩)
      · exact .inr (.inr ⟨hw, hi, rfl, by simp⟩)
    · cases h
  · next hw => cases h; exact .inl ⟨by simpa using hw, rfl⟩

/-- Everything DRAIN_STEP can do when it answers a next state. -/
theorem execDrainStep_cases {s t : State} (h : execDrainStep s = .next t) :
    configOk s.cfg = true ∧
    ((s.fsm ≠ .draining ∧ t = s) ∨
     (s.fsm = .draining ∧ s.dptr.toNat < s.cfg.bufferSize ∧ lastDrain s = false ∧
       t = { s with hist := s.hist ++ [.tx (bufByte s s.dptr.toNat)], dptr := s.dptr + 1 }) ∨
     (s.fsm = .draining ∧ s.dptr.toNat < s.cfg.bufferSize ∧ lastDrain s = true ∧
       t = { s with hist := s.hist ++ [.tx (bufByte s s.dptr.toNat)], dptr := 0, fsm := .idle })) := by
  obtain ⟨hc, h⟩ := whenConfigured_next h
  refine ⟨hc, ?_⟩
  split at h
  · next hw =>
    unfold sendDrainByte at h
    split at h
    · next b hm =>
      obtain ⟨hi, rfl⟩ := memRead_ok_iff.1 hm
      cases h
      cases hf : lastDrain s
      · exact .inr (.inl ⟨hw, hi, rfl, by simp [emit]⟩)
      · exact .inr (.inr ⟨hw, hi, rfl, by simp [emit]⟩)
    · cases h
  · next hw => cases h; exact .inl ⟨hw, rfl⟩

/-- Everything GATE_STEP can do when it answers a next state. -/
theorem execGateStep_cases {s t : State} (h : execGateStep s = .next t) :
    configOk s.cfg = true ∧
    ((s.fsm ≠ .gating ∧ t = s) ∨
     (s.fsm = .gating ∧ s.portIn ≠ s.gref ∧ t = capStart s) ∨
     (s.fsm = .gating ∧ s.portIn = s.gref ∧ s.gcnt = 1 ∧ t = capStart { s with gcnt := 0 }) ∨
     (s.fsm = .gating ∧ s.portIn = s.gref ∧ s.gcnt ≠ 1 ∧ t = { s with gcnt := s.gcnt - 1 })) := by
  obtain ⟨hc, h⟩ := whenConfigured_next h
  refine ⟨hc, ?_⟩
  cases h
  split
  · next hg =>
    unfold gateIteration
    split
    · next hp => exact .inr (.inl ⟨hg, by simpa [changed_iff] using hp, rfl⟩)
    · next hp =>
      have hp : s.portIn = s.gref := by simpa [changed_iff] using hp
      split
      · exact .inr (.inr (.inl ⟨hg, hp, ‹_›, rfl⟩))
      · exact .inr (.inr (.inr ⟨hg, hp, ‹_›, rfl⟩))
  · next hg => exact .inl ⟨hg, rfl⟩

/-- Everything HOST_DONE can do when it answers a next state. -/
theorem execHostDone_cases {s t : State} (h : execHostDone s = .next t) :
    configOk s.cfg = true ∧ t = { s with hbusy := false } := by
  obtain ⟨hc, h⟩ := whenConfigured_next h
  refine ⟨hc, ?_⟩
  cases h
  split
  · rfl
  · next hb => cases s; simp_all

end Sys2Proof.Machine
end

