-- ==== Sys2Proof/Laws/FrontEnd.lean ====
section
/-! SUPPORT. What the front end can do with a byte, and how a frame is its bytes. -/

namespace Sys2Proof.Machine

/-- What an accepted byte can be: one of the command bytes or a payload byte (40_command_front_end R101). -/
theorem rxByte_cases (b : Byte) (s : State) :
    (s.pstate = .cmd ∧ (classify b = .reset ∨ classify b = .unrecognized) ∧ rxByte b s = s) ∨
    (s.pstate = .cmd ∧ classify b = .arm ∧ rxByte b s = armCommand s) ∨
    (s.pstate = .cmd ∧ classify b = .query ∧ rxByte b s = queryCommand s) ∨
    (s.pstate = .cmd ∧ classify b = .getMetadata ∧ rxByte b s = getMetadataCommand s) ∨
    (s.pstate = .cmd ∧ classify b = .setDivider ∧ rxByte b s = setDividerCommand s) ∨
    (s.pstate = .cmd ∧ classify b = .long ∧ rxByte b s = longCommand s) ∨
    (∃ n : Fin 4, s.pstate = .divPay n ∧ n < 3 ∧
      rxByte b s = { s with pay := setPayByte n b s.pay, pstate := .divPay (n + 1) }) ∨
    (s.pstate = .divPay 3 ∧ rxByte b s = { divLoad s.pay s with pstate := .cmd }) ∨
    (∃ n : Fin 4, s.pstate = .longPay n ∧ n < 3 ∧ rxByte b s = { s with pstate := .longPay (n + 1) }) ∨
    (s.pstate = .longPay 3 ∧ rxByte b s = { s with pstate := .cmd }) := by
  cases hp : s.pstate with
  | cmd =>
    simp only [rxByte, hp, commandByte]
    cases classify b <;> simp
  | divPay n =>
    rcases lt_or_ge n 3 with hn | hn
    · refine .inr (.inr (.inr (.inr (.inr (.inr (.inl ⟨n, rfl, hn, ?_⟩))))))
      simp [rxByte, hp, dividerPayload, hn]
    · obtain rfl : n = 3 := by omega
      refine .inr (.inr (.inr (.inr (.inr (.inr (.inr (.inl ⟨rfl, ?_⟩)))))))
      simp [rxByte, hp, dividerPayload]
  | longPay n =>
    rcases lt_or_ge n 3 with hn | hn
    · refine .inr (.inr (.inr (.inr (.inr (.inr (.inr (.inr (.inl ⟨n, rfl, hn, ?_⟩))))))))
      simp [rxByte, hp, longPayload, hn]
    · obtain rfl : n = 3 := by omega
      refine .inr (.inr (.inr (.inr (.inr (.inr (.inr (.inr (.inr ⟨rfl, ?_⟩))))))))
      simp [rxByte, hp, longPayload]

/-- Everything GateStart can do (41_trigger_gate R130). -/
theorem gateStart_cases (s : State) :
    (s.cfg.gateTimeout = 0 ∧ gateStart s = capStart { s with gref := s.portIn, idx := 0 }) ∨
    (s.cfg.gateTimeout ≠ 0 ∧ gateStart s =
      { s with gref := s.portIn, idx := 0, gcnt := BitVec.ofNat 32 s.cfg.gateTimeout, fsm := .gating }) := by
  unfold gateStart
  by_cases h : s.cfg.gateTimeout = 0 <;> simp [h]

/-- What a byte turn can do: no byte there, a byte that waits, or a byte accepted. -/
theorem acceptByte_cases (s : State) :
    (s.rxq = [] ∧ acceptByte s = s) ∨
    (rxReady s = false ∧ acceptByte s = s) ∨
    (∃ b rest, s.rxq = b :: rest ∧ rxReady s = true ∧ acceptByte s = rxByte b { s with rxq := rest }) := by
  unfold acceptByte
  cases hq : s.rxq with
  | nil => exact .inl ⟨rfl, rfl⟩
  | cons b rest =>
    cases hr : rxReady s
    · exact .inr (.inl ⟨rfl, by simp⟩)
    · exact .inr (.inr ⟨b, rest, rfl, rfl, by simp⟩)

@[simp] theorem acceptByte_ready {s : State} {b : Byte} {rest : List Byte} (hq : s.rxq = b :: rest)
    (hr : rxReady s = true) : acceptByte s = rxByte b { s with rxq := rest } := by
  simp [acceptByte, hq, hr]

theorem acceptByte_waits {s : State} (hr : rxReady s = false) : acceptByte s = s := by
  unfold acceptByte
  split <;> simp [hr]

theorem acceptBytes_waits {s : State} (hr : rxReady s = false) (n : Nat) : acceptBytes n s = s := by
  induction n with
  | zero => rfl
  | succ n ih => rw [acceptBytes, acceptByte_waits hr, ih]

/-- What an accepted byte, in any parse state, leaves alone. -/
theorem rxByte_frame (b : Byte) (s : State) :
    (rxByte b s).cfg = s.cfg ∧ (rxByte b s).portIn = s.portIn ∧ (rxByte b s).rxq = s.rxq ∧
    (rxByte b s).sched = s.sched ∧ (rxByte b s).buf = s.buf ∧ (rxByte b s).bufEpoch = s.bufEpoch ∧
    (rxByte b s).dptr = s.dptr := by
  rcases rxByte_cases b s with ⟨-, -, h⟩ | ⟨-, -, h⟩ | ⟨-, -, h⟩ | ⟨-, -, h⟩ | ⟨-, -, h⟩ | ⟨-, -, h⟩ |
    ⟨n, -, -, h⟩ | ⟨-, h⟩ | ⟨n, -, -, h⟩ | ⟨-, h⟩ <;> rw [h] <;> try simp
  unfold armCommand
  split
  · rcases gateStart_cases s with ⟨-, h⟩ | ⟨-, h⟩ <;> rw [h] <;> simp
  · simp

/-- What a byte turn leaves alone; it takes at most the head of the channel. -/
theorem acceptByte_frame (s : State) :
    (acceptByte s).cfg = s.cfg ∧ (acceptByte s).portIn = s.portIn ∧ (acceptByte s).sched = s.sched ∧
    (acceptByte s).buf = s.buf ∧ (acceptByte s).bufEpoch = s.bufEpoch ∧ (acceptByte s).dptr = s.dptr := by
  rcases acceptByte_cases s with ⟨-, h⟩ | ⟨-, h⟩ | ⟨b, rest, -, -, h⟩ <;> rw [h] <;> try simp
  obtain ⟨h1, h2, -, h4, h5, h6, h7⟩ := rxByte_frame b { s with rxq := rest }
  exact ⟨h1, h2, h4, h5, h6, h7⟩

/-- An induction over the bytes of a frame: what every byte turn keeps, a frame keeps. -/
theorem acceptBytes_keeps {P : State → Prop} (hP : ∀ s, P s → P (acceptByte s)) (n : Nat) {s : State} (h : P s) :
    P (acceptBytes n s) := by
  induction n generalizing s with
  | zero => exact h
  | succ n ih => exact ih (hP s h)

/-- A frame is its bytes at the head of the channel and as many byte turns. -/
theorem sendFrame_next {bytes : List Byte} {s t : State} (h : sendFrame bytes s = .next t) :
    configOk s.cfg = true ∧ t = acceptBytes bytes.length { s with rxq := bytes ++ s.rxq } := by
  obtain ⟨hc, h⟩ := whenConfigured_next h
  cases h
  exact ⟨hc, rfl⟩

/-- Every frame's meaning is its bytes. -/
theorem exec_frame {i : Instr} (h : i.isFrame = true) (s : State) : exec i s = sendFrame (encode i) s := by
  cases i <;> first | rfl | cases h

/-! ### One accepted byte, by parse state -/

/-- An accepted command byte acts by its class. -/
theorem rxByte_cmd {s : State} (b : Byte) (hp : s.pstate = .cmd) : rxByte b s = commandByte b s := by
  simp only [rxByte, hp]

theorem acceptByte_divPay {s : State} {b : Byte} {rest : List Byte} {n : Fin 4} (hr : rxReady s = true)
    (hp : s.pstate = .divPay n) (hq : s.rxq = b :: rest) (hn : n < 3) :
    acceptByte s = { s with rxq := rest, pay := setPayByte n b s.pay, pstate := .divPay (n + 1) } := by
  rw [acceptByte_ready hq hr]
  simp only [rxByte, hp, dividerPayload, if_pos hn]

theorem acceptByte_pad {s : State} {b : Byte} {rest : List Byte} (hr : rxReady s = true)
    (hp : s.pstate = .divPay 3) (hq : s.rxq = b :: rest) :
    acceptByte s = { divLoad s.pay s with rxq := rest, pstate := .cmd } := by
  rw [acceptByte_ready hq hr]
  simp only [rxByte, hp, dividerPayload]
  rfl

theorem acceptByte_longPay {s : State} {b : Byte} {rest : List Byte} {n : Fin 4} (hr : rxReady s = true)
    (hp : s.pstate = .longPay n) (hq : s.rxq = b :: rest) (hn : n < 3) :
    acceptByte s = { s with rxq := rest, pstate := .longPay (n + 1) } := by
  rw [acceptByte_ready hq hr]
  simp only [rxByte, hp, longPayload, if_pos hn]

theorem acceptByte_longLast {s : State} {b : Byte} {rest : List Byte} (hr : rxReady s = true)
    (hp : s.pstate = .longPay 3) (hq : s.rxq = b :: rest) : acceptByte s = { s with rxq := rest, pstate := .cmd } := by
  rw [acceptByte_ready hq hr]
  simp only [rxByte, hp, longPayload]
  rfl

/-! ### Whole frames -/

/-- The four payload bytes of SET_DIVIDER (40_command_front_end R105). -/
theorem acceptBytes_dividerPayload {s : State} {b0 b1 b2 b3 : Byte} {rest : List Byte} (hr : rxReady s = true)
    (hp : s.pstate = .divPay 0) (hq : s.rxq = b0 :: b1 :: b2 :: b3 :: rest) :
    acceptBytes 4 s = { divLoad (setPayByte 2 b2 (setPayByte 1 b1 (setPayByte 0 b0 s.pay))) s with
      rxq := rest, pay := setPayByte 2 b2 (setPayByte 1 b1 (setPayByte 0 b0 s.pay)), pstate := .cmd } := by
  simp only [acceptBytes]
  rw [acceptByte_divPay hr hp hq (by decide)]
  rw [acceptByte_divPay (s := { s with
    rxq := b1 :: b2 :: b3 :: rest, pay := setPayByte 0 b0 s.pay, pstate := .divPay (0 + 1) }) (b := b1) (rest := b2 :: b3 :: rest) (n := 0 + 1) (by exact hr) rfl rfl (by decide)]
  rw [acceptByte_divPay (s := { s with
    rxq := b2 :: b3 :: rest, pay := setPayByte (0 + 1) b1 (setPayByte 0 b0 s.pay), pstate := .divPay (0 + 1 + 1) })
    (b := b2) (rest := b3 :: rest) (n := 0 + 1 + 1) (by exact hr) rfl rfl (by decide)]
  rw [acceptByte_pad (s := { s with
    rxq := b3 :: rest, pay := setPayByte (0 + 1 + 1) b2 (setPayByte (0 + 1) b1 (setPayByte 0 b0 s.pay)),
    pstate := .divPay (0 + 1 + 1 + 1) }) (b := b3) (rest := rest) (by exact hr) rfl rfl]
  rfl

/-- The four payload bytes of a LONG frame (40_command_front_end R110). -/
theorem acceptBytes_longPayload {s : State} {b0 b1 b2 b3 : Byte} {rest : List Byte} (hr : rxReady s = true)
    (hp : s.pstate = .longPay 0) (hq : s.rxq = b0 :: b1 :: b2 :: b3 :: rest) :
    acceptBytes 4 s = { s with rxq := rest, pstate := .cmd } := by
  simp only [acceptBytes]
  rw [acceptByte_longPay hr hp hq (by decide)]
  rw [acceptByte_longPay (s := { s with rxq := b1 :: b2 :: b3 :: rest, pstate := .longPay (0 + 1) }) (b := b1) (rest := b2 :: b3 :: rest) (n := 0 + 1) (by exact hr) rfl rfl (by decide)]
  rw [acceptByte_longPay (s := { s with rxq := b2 :: b3 :: rest, pstate := .longPay (0 + 1 + 1) }) (b := b2) (rest := b3 :: rest) (n := 0 + 1 + 1) (by exact hr) rfl rfl (by decide)]
  rw [acceptByte_longLast (s := { s with rxq := b3 :: rest, pstate := .longPay (0 + 1 + 1 + 1) }) (b := b3) (rest := rest) (by exact hr) rfl rfl]

/-- A frame of one byte at a frame's start is its command byte. -/
theorem sendFrame_short {s : State} {b : Byte} (hc : configOk s.cfg = true) (hr : rxReady s = true)
    (hp : s.pstate = .cmd) : sendFrame [b] s = .next (commandByte b s) := by
  rw [sendFrame, whenConfigured_ok hc]
  simp only [List.length_singleton, acceptBytes, List.singleton_append]
  rw [acceptByte_ready (b := b) (rest := s.rxq) rfl (by exact hr), ← rxByte_cmd b hp]

/-- A frame of five bytes is its first byte and then four. -/
theorem sendFrame_long {s : State} {b p0 p1 p2 p3 : Byte} (hc : configOk s.cfg = true) (hr : rxReady s = true) :
    sendFrame [b, p0, p1, p2, p3] s =
      .next (acceptBytes 4 (rxByte b { s with rxq := p0 :: p1 :: p2 :: p3 :: s.rxq })) := by
  rw [sendFrame, whenConfigured_ok hc]
  simp only [List.length_cons, List.length_nil, acceptBytes]
  rw [acceptByte_ready (s := { s with rxq := [b, p0, p1, p2, p3] ++ s.rxq }) (b := b)
    (rest := p0 :: p1 :: p2 :: p3 :: s.rxq) rfl (by exact hr)]

/-- The three divider bytes of a SET_DIVIDER payload leave the divider in `pay` (30_encoding R73,
40_command_front_end R105). -/
theorem setPayByte_dividerBytes (x y : Divider) :
    setPayByte 2 (dividerByte x 2) (setPayByte 1 (dividerByte x 1) (setPayByte 0 (dividerByte x 0) y)) = x := by
  apply BitVec.eq_of_getLsbD_eq
  intro i hi
  simp only [setPayByte, dividerByte, BitVec.getLsbD_append, BitVec.getLsbD_extractLsb']
  interval_cases i <;> simp

/-- A divider byte adds its eight bits above those already received (40_command_front_end R105). -/
theorem setPayByte_lt {n : Fin 4} (hn : n < 3) (b : Byte) {y : Divider} (h : y.toNat < 2 ^ (8 * n.val)) :
    (setPayByte n b y).toNat < 2 ^ (8 * (n + 1).val) := by
  have hb := b.isLt
  fin_cases n
  · obtain rfl : y = 0 := BitVec.eq_of_toNat_eq (by simpa using h)
    have e : BitVec.extractLsb' 8 16 (0 : Divider) = 0#16 := by decide
    simp only [setPayByte, e]
    rw [show ((0#16 ++ b : BitVec 24)).toNat = _ from BitVec.toNat_append ..]
    simpa using hb
  · simp [setPayByte] at *
    have e : BitVec.extractLsb' 16 8 y = 0#8 := by
      apply BitVec.eq_of_toNat_eq
      simp [BitVec.extractLsb'_toNat, Nat.shiftRight_eq_div_pow]
      omega
    rw [e, show ((0#8 ++ b : BitVec 16) ++ BitVec.extractLsb' 0 8 y).toNat = _ from BitVec.toNat_append ..,
      BitVec.toNat_append]
    simp [BitVec.extractLsb'_toNat]
    rw [← Nat.shiftLeft_add_eq_or_of_lt (by omega), Nat.shiftLeft_eq]
    omega
  · simpa [setPayByte] using (setPayByte 2 b y).isLt
  · exact absurd hn (by decide)

/-! ### What the front end keeps -/

/-- What ARM leaves alone; it records no TX event. -/
theorem armCommand_frame (s : State) :
    (armCommand s).period = s.period ∧ (armCommand s).pstate = s.pstate ∧ (armCommand s).pay = s.pay ∧
    (armCommand s).hbusy = s.hbusy ∧ ∃ es, (armCommand s).hist = s.hist ++ es ∧ ∀ b, OutEvent.tx b ∉ es := by
  unfold armCommand
  split
  · rcases gateStart_cases s with ⟨-, h⟩ | ⟨-, h⟩ <;> rw [h]
    · exact ⟨rfl, rfl, rfl, rfl, [.tmrStart], rfl, by simp⟩
    · exact ⟨rfl, rfl, rfl, rfl, [], by simp, by simp⟩
  · exact ⟨rfl, rfl, rfl, rfl, [], by simp, by simp⟩

/-- The two states are in the same capture: the capture state, the timer controls, the indices, the buffer and the gate
agree, and the turns to come are the same. -/
def SameCapture (s t : State) : Prop :=
  t.fsm = s.fsm ∧ t.tmrIe = s.tmrIe ∧ t.tmrRun = s.tmrRun ∧ t.idx = s.idx ∧ t.buf = s.buf ∧ t.bufEpoch = s.bufEpoch ∧
  t.cfg = s.cfg ∧ t.dptr = s.dptr ∧ t.sched = s.sched ∧ t.gcnt = s.gcnt ∧ t.gref = s.gref

theorem SameCapture.refl (s : State) : SameCapture s s := by simp [SameCapture]

theorem SameCapture.trans {a b c : State} (h : SameCapture a b) (g : SameCapture b c) : SameCapture a c := by
  simp_all [SameCapture]

theorem rxByte_sameCapture (b : Byte) {s : State} (h : s.fsm ≠ .idle) : SameCapture s (rxByte b s) := by
  rcases rxByte_cases b s with ⟨-, -, e⟩ | ⟨-, -, e⟩ | ⟨-, -, e⟩ | ⟨-, -, e⟩ | ⟨-, -, e⟩ | ⟨-, -, e⟩ |
    ⟨n, -, -, e⟩ | ⟨-, e⟩ | ⟨n, -, -, e⟩ | ⟨-, e⟩ <;> rw [e]
  case inr.inl => simp [armCommand, h, SameCapture]
  all_goals simp [SameCapture]

/-- Outside IDLE no host byte disturbs the capture (40_command_front_end R103, 42_ring_controller R158). -/
theorem acceptByte_sameCapture {s : State} (h : s.fsm ≠ .idle) : SameCapture s (acceptByte s) := by
  rcases acceptByte_cases s with ⟨-, e⟩ | ⟨-, e⟩ | ⟨b, rest, -, -, e⟩ <;> rw [e]
  · exact .refl s
  · exact .refl s
  · exact rxByte_sameCapture b (s := { s with rxq := rest }) h

theorem acceptBytes_sameCapture (n : Nat) {s : State} (h : s.fsm ≠ .idle) : SameCapture s (acceptBytes n s) := by
  exact acceptBytes_keeps (P := SameCapture s)
    (fun u hu => hu.trans (acceptByte_sameCapture (by rw [hu.1]; exact h))) n (.refl s)

end Sys2Proof.Machine
end

