-- ==== Sys2Proof/Laws/PerInstr.lean ====
section
/-! SUPPORT. Statements about every instruction as syntax, one lemma per constructor. `FrameLength`: an instruction's
encoding has as many bytes as its first byte tells a decoder (30_encoding R71, R75); an event has none (R79). -/

namespace Sys2Proof.Laws.FrameLength

/-- The encoding of a well-formed instruction has the length its own first byte asks for. -/
def Statement (i : Instr) : Prop :=
  i.wellFormed = true →
    (i.isFrame = true ∧ ∃ op rest, encode i = op :: rest ∧ (encode i).length = frameLength op) ∨
    (i.isFrame = false ∧ encode i = [])

theorem reset : Statement .reset := fun _ => .inl ⟨rfl, _, _, rfl, by decide⟩

theorem arm : Statement .arm := fun _ => .inl ⟨rfl, _, _, rfl, by decide⟩

theorem query : Statement .query := fun _ => .inl ⟨rfl, _, _, rfl, by decide⟩

theorem getMetadata : Statement .getMetadata := fun _ => .inl ⟨rfl, _, _, rfl, by decide⟩

theorem setDivider (x : Divider) (pad : Byte) : Statement (.setDivider x pad) := fun _ => .inl ⟨rfl, _, _, rfl, rfl⟩

theorem longC0 (p : Payload) : Statement (.longC0 p) := fun _ => .inl ⟨rfl, _, _, rfl, rfl⟩

theorem longC4 (p : Payload) : Statement (.longC4 p) := fun _ => .inl ⟨rfl, _, _, rfl, rfl⟩

theorem longC8 (p : Payload) : Statement (.longC8 p) := fun _ => .inl ⟨rfl, _, _, rfl, rfl⟩

theorem longCC (p : Payload) : Statement (.longCC p) := fun _ => .inl ⟨rfl, _, _, rfl, rfl⟩

theorem longC1 (p : Payload) : Statement (.longC1 p) := fun _ => .inl ⟨rfl, _, _, rfl, rfl⟩

theorem longC5 (p : Payload) : Statement (.longC5 p) := fun _ => .inl ⟨rfl, _, _, rfl, rfl⟩

theorem longC9 (p : Payload) : Statement (.longC9 p) := fun _ => .inl ⟨rfl, _, _, rfl, rfl⟩

theorem longCD (p : Payload) : Statement (.longCD p) := fun _ => .inl ⟨rfl, _, _, rfl, rfl⟩

theorem longC2 (p : Payload) : Statement (.longC2 p) := fun _ => .inl ⟨rfl, _, _, rfl, rfl⟩

theorem longC6 (p : Payload) : Statement (.longC6 p) := fun _ => .inl ⟨rfl, _, _, rfl, rfl⟩

theorem longCA (p : Payload) : Statement (.longCA p) := fun _ => .inl ⟨rfl, _, _, rfl, rfl⟩

theorem longCE (p : Payload) : Statement (.longCE p) := fun _ => .inl ⟨rfl, _, _, rfl, rfl⟩

theorem long81 (p : Payload) : Statement (.long81 p) := fun _ => .inl ⟨rfl, _, _, rfl, rfl⟩

theorem long82 (p : Payload) : Statement (.long82 p) := fun _ => .inl ⟨rfl, _, _, rfl, rfl⟩

theorem unrecognized (op : Byte) : Statement (.unrecognized op) := by
  intro h
  refine .inl ⟨rfl, op, [], rfl, ?_⟩
  revert h
  revert op
  decide

theorem gateStep : Statement .gateStep := fun _ => .inr ⟨rfl, rfl⟩

theorem tick : Statement .tick := fun _ => .inr ⟨rfl, rfl⟩

theorem drainStep : Statement .drainStep := fun _ => .inr ⟨rfl, rfl⟩

theorem hostDone : Statement .hostDone := fun _ => .inr ⟨rfl, rfl⟩

theorem rst : Statement .rst := fun _ => .inr ⟨rfl, rfl⟩

end Sys2Proof.Laws.FrameLength
end

