-- ==== Sys2Proof/Laws/Turns.lean ====
section
/-! SUPPORT. What a turn does, said once for each agent; how several steps follow one another; and the induction over
the steps of the machine. -/

namespace Sys2Proof.Machine

/-- A host byte turn. -/
theorem step_hostByte {s : State} {p : Byte} {ts : List Turn} (hc : configOk s.cfg = true)
    (hs : s.sched = ⟨.hostByte, p⟩ :: ts) : step s = .next (acceptByte { s with sched := ts, portIn := p }) := by
  simp [step, nextTurn, hs, agentTurn, hostByteTurn, hc]

/-- A host byte turn with a byte in the channel and `rx_ready` = 1. -/
theorem step_hostByte_ready {s : State} {p b : Byte} {ts : List Turn} {rest : List Byte} (hc : configOk s.cfg = true)
    (hr : rxReady s = true) (hs : s.sched = ⟨.hostByte, p⟩ :: ts) (hq : s.rxq = b :: rest) :
    step s = .next (rxByte b { s with sched := ts, portIn := p, rxq := rest }) := by
  rw [step_hostByte hc hs, acceptByte_ready (b := b) (rest := rest) (by exact hq) (by exact hr)]

/-- A gate turn in GATING. -/
theorem step_gateSequencer {s : State} {p : Byte} {ts : List Turn} (hc : configOk s.cfg = true) (h1 : s.fsm = .gating)
    (hs : s.sched = ⟨.gateSequencer, p⟩ :: ts) :
    step s = .next (
      if changed p s.gref then capStart { s with sched := ts, portIn := p }
      else if s.gcnt = 1 then capStart { s with sched := ts, portIn := p, gcnt := 0 }
      else { s with sched := ts, portIn := p, gcnt := s.gcnt - 1 }) := by
  simp only [step, nextTurn, hs, agentTurn, exec, execGateStep]
  rw [whenConfigured_ok (by exact hc), if_pos h1]
  rfl

/-- A timer turn in SAMPLING with the interrupt enabled. -/
theorem step_sampleTimer {s : State} {p : Byte} {ts : List Turn} (hc : configOk s.cfg = true) (h1 : s.fsm = .sampling)
    (h2 : s.tmrIe = true) (h3 : s.idx.toNat < s.cfg.bufferSize) (hs : s.sched = ⟨.sampleTimer, p⟩ :: ts) :
    step s = .next (
      if full s then enterDrain { s with sched := ts, portIn := p, buf := s.buf.put s.idx.toNat p }
      else { s with sched := ts, portIn := p, buf := s.buf.put s.idx.toNat p, idx := s.idx + 1 }) := by
  simp only [step, nextTurn, hs, agentTurn, exec, execTick]
  rw [whenConfigured_ok (by exact hc), if_pos (by simp [writeEnable, h1, h2])]
  simp only [takeSample, memWrite, readPort]
  rw [if_pos h3]
  rfl

/-- A transmit turn in DRAINING. -/
theorem step_transmitSide {s : State} {p : Byte} {ts : List Turn} (hc : configOk s.cfg = true)
    (h1 : s.fsm = .draining) (h3 : s.dptr.toNat < s.cfg.bufferSize) (hs : s.sched = ⟨.transmitSide, p⟩ :: ts) :
    step s = .next (
      if lastDrain s then { s with
        sched := ts, portIn := p, hist := s.hist ++ [.tx (bufByte s s.dptr.toNat)], dptr := 0, fsm := .idle }
      else { s with
        sched := ts, portIn := p, hist := s.hist ++ [.tx (bufByte s s.dptr.toNat)], dptr := s.dptr + 1 }) := by
  simp only [step, nextTurn, hs, agentTurn, exec, execDrainStep]
  rw [whenConfigured_ok (by exact hc), if_pos h1]
  simp only [sendDrainByte, memRead]
  rw [if_pos h3]
  rfl

/-- Outside IDLE, a turn of an agent whose own event is not enabled in this phase leaves the capture as it is. -/
theorem step_sameCapture {s : State} {u : Turn} {ts : List Turn} (hc : configOk s.cfg = true) (hf : s.fsm ≠ .idle)
    (hs : s.sched = u :: ts) (hp : u.agent ≠ .platform) (hg : u.agent = .gateSequencer → s.fsm ≠ .gating)
    (ht : u.agent = .sampleTimer → writeEnable s = false) (hd : u.agent = .transmitSide → s.fsm ≠ .draining) :
    ∃ t, step s = .next t ∧ SameCapture { s with sched := ts } t := by
  obtain ⟨a, p⟩ := u
  simp only [step, nextTurn, hs]
  have hc1 : configOk ({ s with sched := ts, portIn := p } : State).cfg = true := hc
  cases a <;> simp at hp hg ht hd <;> simp only [agentTurn, hostByteTurn, hostFrameTurn]
  · exact ⟨_, whenConfigured_ok hc1 _, acceptByte_sameCapture (s := { s with sched := ts, portIn := p }) hf⟩
  · split
    · next i rest hdec =>
      rw [exec_frame (decode_isFrame hdec), sendFrame]
      exact ⟨_, whenConfigured_ok hc _,
        acceptBytes_sameCapture _ (s := { s with sched := ts, portIn := p, rxq := _ }) hf⟩
    · exact ⟨_, whenConfigured_ok hc1 _, acceptByte_sameCapture (s := { s with sched := ts, portIn := p }) hf⟩
  · refine ⟨{ s with sched := ts, portIn := p }, ?_, by simp [SameCapture]⟩
    simp only [exec, execGateStep]
    rw [whenConfigured_ok hc1, if_neg hg]
  · refine ⟨{ s with sched := ts, portIn := p }, ?_, by simp [SameCapture]⟩
    simp only [exec, execTick]
    rw [whenConfigured_ok hc1, if_neg (by simpa [writeEnable] using ht)]
  · refine ⟨{ s with sched := ts, portIn := p }, ?_, by simp [SameCapture]⟩
    simp only [exec, execDrainStep]
    rw [whenConfigured_ok hc1, if_neg hd]
  · refine ⟨{ s with sched := ts, portIn := p, hbusy := false }, ?_, by simp [SameCapture]⟩
    simp only [exec, execHostDone]
    rw [whenConfigured_ok hc1]
    cases hb : s.hbusy <;> simp

/-! ### Several steps -/

theorem steps_succ {n : Nat} {s t : State} (h : step s = .next t) : steps (n + 1) s = steps n t := by
  simp [steps, h]

theorem steps_add {n m : Nat} {s t : State} (h : steps n s = .next t) : steps (n + m) s = steps m t := by
  induction n generalizing s with
  | zero => cases h; simp
  | succ n ih =>
    rw [show n + 1 + m = (n + m) + 1 by omega]
    cases hst : step s with
    | next t' => rw [steps_succ hst] at h ⊢; exact ih h
    | fault f => simp [steps, hst] at h
    | refused f => simp [steps, hst] at h

@[simp] theorem portsOf_nil (a : Agent) : portsOf a [] = [] := rfl

@[simp] theorem portsOf_cons_same (a : Agent) (p : Byte) (ts : List Turn) :
    portsOf a (⟨a, p⟩ :: ts) = p :: portsOf a ts := by
  simp [portsOf]

theorem portsOf_cons_other {a : Agent} {u : Turn} (h : u.agent ≠ a) (ts : List Turn) :
    portsOf a (u :: ts) = portsOf a ts := by
  simp [portsOf, h]

/-- What every kind of transition keeps, every step keeps. -/
theorem step_keeps {P : State → Prop} (henv : ∀ s ts p, P s → P { s with sched := ts, portIn := p })
    (hrxq : ∀ s q, P s → P { s with rxq := q }) (hrx : ∀ s, configOk s.cfg = true → P s → P (acceptByte s))
    (hgate : ∀ s t, execGateStep s = .next t → P s → P t) (htick : ∀ s t, execTick s = .next t → P s → P t)
    (hdrain : ∀ s t, execDrainStep s = .next t → P s → P t) (hdone : ∀ s t, execHostDone s = .next t → P s → P t)
    (hrst : ∀ s t, execRst s = .next t → P s → P t) {s t : State} (h : step s = .next t) (hs : P s) : P t := by
  simp only [step, nextTurn] at h
  split at h
  · obtain ⟨-, h⟩ := whenConfigured_next h
    cases h
    exact hs
  · next u ts hu =>
    obtain ⟨a, p⟩ := u
    have h0 := henv s ts p hs
    have hframe : ∀ n s, configOk s.cfg = true → P s → P (acceptBytes n s) := fun n s hc h =>
      (acceptBytes_keeps (P := fun s => configOk s.cfg = true ∧ P s)
        (fun s h => ⟨by rw [(acceptByte_frame s).1]; exact h.1, hrx s h.1 h.2⟩) n ⟨hc, h⟩).2
    cases a <;> simp only [agentTurn, hostByteTurn, hostFrameTurn] at h
    · obtain ⟨hc, h⟩ := whenConfigured_next h
      cases h
      exact hrx _ hc h0
    · split at h
      · next i rest hd =>
        rw [exec_frame (decode_isFrame hd)] at h
        obtain ⟨hc, rfl⟩ := sendFrame_next h
        exact hframe _ _ hc (hrxq _ _ (hrxq _ rest h0))
      · obtain ⟨hc, h⟩ := whenConfigured_next h
        cases h
        exact hrx _ hc h0
    · exact hgate _ _ h h0
    · exact htick _ _ h h0
    · exact hdrain _ _ h h0
    · exact hdone _ _ h h0
    · exact hrst _ _ h h0

end Sys2Proof.Machine
end

