-- ==== Sys2Proof/Tests/Slice0.lean ====
section
/-! SUPPORT. Tests of the model on fixed values, and a witness for the hypotheses of every statement. Each test names the
rule or the vector of 95_test_vectors its expected value comes from; none is the model's own answer. -/

namespace Sys2Proof.Tests

open Sys2Proof.Machine

/-! ### Small states -/

/-- A small legal configuration: two samples, the clocks of CFG-D of 95_test_vectors, a gate budget of 3. -/
def smallConfig : Config := { bufferSize := 2, refClkHz := 16777216, timerClkHz := 16777216, gateTimeout := 3 }

/-- `smallConfig` with a gate budget of 0. -/
def zeroBudget : Config := { smallConfig with gateTimeout := 0 }

/-- IDLE right after reset, the port showing `p`. -/
def idleState (p : Byte) : State := { State.resetWith smallConfig with portIn := p }

/-- GATING with snapshot 0x5A and countdown `n`, the port showing `p`. -/
def gatingState (n : Word) (p : Byte) : State := { idleState p with fsm := .gating, gref := 0x5A, gcnt := n }

/-- SAMPLING with `i` samples stored, each 0x11, the port showing `p`. -/
def samplingState (i : Nat) (p : Byte) : State :=
  { idleState p with fsm := .sampling, tmrRun := true, tmrIe := true, idx := BitVec.ofNat 32 i,
                     buf := (List.range i).map fun k => (k, 0x11) }

/-- DRAINING with the buffer 0x11, 0x22 and `i` bytes sent. -/
def drainingState (i : Nat) : State :=
  { idleState 0 with fsm := .draining, dptr := BitVec.ofNat 32 i, buf := [(0, 0x11), (1, 0x22)] }

/-- One field of the state an outcome answers. -/
def view {α : Type} (r : Result) (f : State → α) : Option α :=
  match r with
  | .next t => some (f t)
  | .fault _ => none
  | .refused _ => none

/-- The fault an outcome answers. -/
def faultOf (r : Result) : Option Fault :=
  match r with
  | .next _ => none
  | .fault f => some f
  | .refused _ => none

/-- The refusal an outcome answers. -/
def refusalOf (r : Result) : Option Refusal :=
  match r with
  | .next _ => none
  | .fault _ => none
  | .refused f => some f

/-- A state with these turns to come and these bytes in the channel. -/
def withTurns (s : State) (ts : List Turn) (q : List Byte) : State := { s with sched := ts, rxq := q }

/-! ### Decoding: one word per constructor, written out from opcode_table.json -/

theorem test_decode_reset : decodeTableWord 8 0b00000000 = some .reset := by decide
theorem test_decode_arm : decodeTableWord 8 0b00000001 = some .arm := by decide
theorem test_decode_query : decodeTableWord 8 0b00000010 = some .query := by decide
theorem test_decode_getMetadata : decodeTableWord 8 0b00000100 = some .getMetadata := by decide
/-- 95_test_vectors V11: frame `[0x80, 0x01, 0x02, 0x03, 0xFF]`, x = 0x030201. -/
theorem test_decode_setDivider :
    decodeTableWord 40 0b1111111100000011000000100000000110000000 = some (.setDivider 0x030201 0xFF) := by decide
theorem test_decode_longC0 : decodeTableWord 8 0b11000000 = some (.longC0 ⟨0, 0, 0, 0⟩) := by decide
theorem test_decode_longC4 : decodeTableWord 8 0b11000100 = some (.longC4 ⟨0, 0, 0, 0⟩) := by decide
theorem test_decode_longC8 : decodeTableWord 8 0b11001000 = some (.longC8 ⟨0, 0, 0, 0⟩) := by decide
theorem test_decode_longCC : decodeTableWord 8 0b11001100 = some (.longCC ⟨0, 0, 0, 0⟩) := by decide
theorem test_decode_longC1 : decodeTableWord 8 0b11000001 = some (.longC1 ⟨0, 0, 0, 0⟩) := by decide
theorem test_decode_longC5 : decodeTableWord 40 0x44332211C5 = some (.longC5 ⟨0x11, 0x22, 0x33, 0x44⟩) := by decide
theorem test_decode_longC9 : decodeTableWord 8 0b11001001 = some (.longC9 ⟨0, 0, 0, 0⟩) := by decide
theorem test_decode_longCD : decodeTableWord 8 0b11001101 = some (.longCD ⟨0, 0, 0, 0⟩) := by decide
theorem test_decode_longC2 : decodeTableWord 8 0b11000010 = some (.longC2 ⟨0, 0, 0, 0⟩) := by decide
theorem test_decode_longC6 : decodeTableWord 8 0b11000110 = some (.longC6 ⟨0, 0, 0, 0⟩) := by decide
theorem test_decode_longCA : decodeTableWord 8 0b11001010 = some (.longCA ⟨0, 0, 0, 0⟩) := by decide
theorem test_decode_longCE : decodeTableWord 8 0b11001110 = some (.longCE ⟨0, 0, 0, 0⟩) := by decide
theorem test_decode_long81 : decodeTableWord 8 0b10000001 = some (.long81 ⟨0, 0, 0, 0⟩) := by decide
theorem test_decode_long82 : decodeTableWord 8 0b10000010 = some (.long82 ⟨0, 0, 0, 0⟩) := by decide
theorem test_decode_unrecognized : decodeTableWord 8 0b11000011 = some (.unrecognized 0xC3) := by decide
/-- 40_command_front_end R112: a frame that stops after its second byte is not decoded. -/
theorem test_decode_missingPayload : decode [0x80, 0x09] = .error (.missingPayload 0x80) := by decide
theorem test_decode_noByte : decode [] = .error .noByte := by decide
/-- 30_encoding R79: the events have no byte encoding. -/
theorem test_encode_events :
    [Instr.gateStep, .tick, .drainStep, .hostDone, .rst].map encode = [[], [], [], [], []] := by decide

/-! ### Well-formedness: UNRECOGNIZED is none of the nineteen recognized values (30_encoding R72) -/

theorem test_illFormed_short : [0x00, 0x01, 0x02, 0x04, 0x80].all
    (fun op => (Instr.unrecognized op).wellFormed == false) = true := by decide
theorem test_illFormed_long : longOps.all (fun op => (Instr.unrecognized op).wellFormed == false) = true := by decide
theorem test_wellFormed_edges : [0x03, 0x83, 0xC3, 0xC7, 0xCB, 0xCF, 0xD0, 0xFF].all
    (fun op => (Instr.unrecognized op).wellFormed) = true := by decide

/-! ### One step of each instruction -/

/-- 40_command_front_end R102. -/
theorem test_reset : view (exec .reset (samplingState 1 0x5A)) id = some (samplingState 1 0x5A) := by decide
/-- 95_test_vectors V17: `ARM port=0x5A` with GATE_TIMEOUT 3. -/
theorem test_arm_idle : view (exec .arm (idleState 0x5A)) (fun t => (t.fsm, t.gref, t.gcnt, t.hist)) =
    some (.gating, 0x5A, 3, []) := by decide
/-- 95_test_vectors V18: `ARM port=0x00` with GATE_TIMEOUT 0. -/
theorem test_arm_zeroBudget : view (exec .arm (State.resetWith zeroBudget)) (fun t => (t.fsm, t.tmrRun, t.hist)) =
    some (.sampling, true, [.tmrStart]) := by decide
/-- 95_test_vectors V1. -/
theorem test_query : view (exec .query (idleState 0)) (fun t => (t.hbusy, t.hist)) =
    some (true, [.hostReq 0x02]) := by decide
/-- 40_command_front_end R107. -/
theorem test_getMetadata : view (exec .getMetadata (idleState 0)) (fun t => (t.hbusy, t.hist)) =
    some (true, [.hostReq 0x04]) := by decide
/-- 95_test_vectors V20, CFG-D at x = 0x030201. -/
theorem test_setDivider : view (exec (.setDivider 0x030201 0xFF) (idleState 0)) (fun t => (t.period, t.pay, t.hist)) =
    some (197379, 0x030201, [.tmrLoad 197379]) := by decide
/-- 95_test_vectors V20, the last row: the divider at its largest, under CFG-A, CFG-B, CFG-C. -/
theorem test_period_largest :
    periodOf ⟨4, 100000000, 100000000, 1000⟩ 16777215 = 20000000 ∧
    periodOf ⟨4, 16777216, 80000000, 1000⟩ 16777215 = 80000000 ∧
    periodOf ⟨4, 4294967295, 4294967295, 1000⟩ 16777215 = 16843009 := by decide
/-- 40_command_front_end R110: payload bytes that look like commands are not decoded. -/
theorem test_longC0 : view (exec (.longC0 ⟨0x01, 0x80, 0x02, 0x04⟩) (idleState 0)) id = some (idleState 0) := by decide
theorem test_longC4 : view (exec (.longC4 ⟨0x01, 0x80, 0x02, 0x04⟩) (idleState 0)) id = some (idleState 0) := by decide
theorem test_longC8 : view (exec (.longC8 ⟨0x01, 0x80, 0x02, 0x04⟩) (idleState 0)) id = some (idleState 0) := by decide
theorem test_longCC : view (exec (.longCC ⟨0x01, 0x80, 0x02, 0x04⟩) (idleState 0)) id = some (idleState 0) := by decide
theorem test_longC1 : view (exec (.longC1 ⟨0x01, 0x80, 0x02, 0x04⟩) (idleState 0)) id = some (idleState 0) := by decide
theorem test_longC5 : view (exec (.longC5 ⟨0x01, 0x80, 0x02, 0x04⟩) (idleState 0)) id = some (idleState 0) := by decide
theorem test_longC9 : view (exec (.longC9 ⟨0x01, 0x80, 0x02, 0x04⟩) (idleState 0)) id = some (idleState 0) := by decide
theorem test_longCD : view (exec (.longCD ⟨0x01, 0x80, 0x02, 0x04⟩) (idleState 0)) id = some (idleState 0) := by decide
theorem test_longC2 : view (exec (.longC2 ⟨0x01, 0x80, 0x02, 0x04⟩) (idleState 0)) id = some (idleState 0) := by decide
theorem test_longC6 : view (exec (.longC6 ⟨0x01, 0x80, 0x02, 0x04⟩) (idleState 0)) id = some (idleState 0) := by decide
theorem test_longCA : view (exec (.longCA ⟨0x01, 0x80, 0x02, 0x04⟩) (idleState 0)) id = some (idleState 0) := by decide
theorem test_longCE : view (exec (.longCE ⟨0x01, 0x80, 0x02, 0x04⟩) (idleState 0)) id = some (idleState 0) := by decide
theorem test_long81 : view (exec (.long81 ⟨0x01, 0x80, 0x02, 0x04⟩) (idleState 0)) id = some (idleState 0) := by decide
theorem test_long82 : view (exec (.long82 ⟨0x01, 0x80, 0x02, 0x04⟩) (idleState 0)) id = some (idleState 0) := by decide
/-- 40_command_front_end R111. -/
theorem test_unrecognized : view (exec (.unrecognized 0x83) (idleState 0)) id = some (idleState 0) := by decide
/-- 95_test_vectors V17, row 3: a change on the last iteration leaves `gcnt` at 1. -/
theorem test_gateStep_change : view (exec .gateStep (gatingState 1 0x00)) (fun t => (t.fsm, t.gcnt, t.hist)) =
    some (.sampling, 1, [.tmrStart]) := by decide
/-- 95_test_vectors V17, row 2: no change on the last iteration leaves `gcnt` at 0. -/
theorem test_gateStep_timeout : view (exec .gateStep (gatingState 1 0x5A)) (fun t => (t.fsm, t.gcnt, t.hist)) =
    some (.sampling, 0, [.tmrStart]) := by decide
/-- 95_test_vectors V21, with BUFFERSIZE 2: a tick that does not fill the buffer. -/
theorem test_tick : view (exec .tick (samplingState 0 0x22)) (fun t => (t.fsm, t.idx, t.buf)) =
    some (.sampling, 1, [(0, 0x22)]) := by decide
/-- 95_test_vectors V21, with BUFFERSIZE 2: the full tick. -/
theorem test_tick_full : view (exec .tick (samplingState 1 0x22)) (fun t => (t.fsm, t.buf, t.tmrIe, t.hist)) =
    some (.draining, [(0, 0x11), (1, 0x22)], false, [.tmrStop]) := by decide
/-- 95_test_vectors V21, with BUFFERSIZE 2: the first drain byte. -/
theorem test_drainStep : view (exec .drainStep (drainingState 0)) (fun t => (t.fsm, t.dptr, t.hist)) =
    some (.draining, 1, [.tx 0x11]) := by decide
/-- 95_test_vectors V21, with BUFFERSIZE 2: the last drain byte. -/
theorem test_drainStep_last : view (exec .drainStep (drainingState 1)) (fun t => (t.fsm, t.dptr, t.hist)) =
    some (.idle, 0, [.tx 0x22]) := by decide
/-- 40_command_front_end R108. -/
theorem test_hostDone : view (exec .hostDone { idleState 0 with hbusy := true }) (fun t => t.hbusy) = some false := by
  decide
/-- 95_test_vectors V25. -/
theorem test_rst : view (exec .rst { samplingState 1 0 with period := 10, hist := [.tmrStart] })
    (fun t => (t.fsm, t.period, t.tmrIe, t.idx)) = some (.idle, 1, false, 0) := by decide

/-! ### Steps, the environment, configurations -/

/-- 95_test_vectors V14: while a hand-off is outstanding the ARM byte stays in the channel. -/
theorem test_step_byteWaits :
    view (step (withTurns { idleState 0 with hbusy := true } [⟨.hostByte, 0⟩] [0x01])) (fun t => (t.fsm, t.rxq)) =
    some (.idle, [0x01]) := by decide
/-- 95_test_vectors V12: a frame that has stopped after its second byte. -/
theorem test_step_partialFrame :
    view (steps 2 (withTurns (idleState 0) [⟨.hostByte, 0⟩, ⟨.hostByte, 0⟩] [0x80, 0x09]))
      (fun t => (t.pstate, t.pay, t.period)) = some (.divPay 1, 0x000009, 1) := by decide
/-- The word placed by `withFetchWord` is the first instruction after reset. -/
theorem test_step_placed : view (step (State.reset.withFetchWord 40 0x0000000980)) (fun t => (t.period, t.hist)) =
    some (10, [.tmrLoad 10]) := by decide
/-- 95_test_vectors after V20: REF_CLK_HZ 100,000,000 with TIMER_CLK_HZ 80,000,000 is refused. -/
theorem test_badConfiguration :
    refusalOf (step (State.resetWith ⟨4, 100000000, 80000000, 1000⟩)) = some .badConfiguration := by decide
/-- 20_memory R53: the assertion, in a state no run reaches. -/
theorem test_bufferIndex : faultOf (exec .drainStep (drainingState 2)) = some .bufferIndex := by decide
/-- 95_test_vectors V1 and V2. -/
theorem test_encoderReply :
    encoderReply exampleConfig ⟨[0x41], 0x01020304⟩ 0x02 = some [0x31, 0x41, 0x4C, 0x53] ∧
    encoderReply exampleConfig ⟨[0x41], 0x01020304⟩ 0x04 = some ([0x01, 0x41, 0x00] ++ [0x21, 0x00, 0x00, 0x00, 0x04] ++
      [0x23, 0x01, 0x02, 0x03, 0x04] ++ [0x40, 0x08, 0x41, 0x02, 0x00]) := by decide
/-- 30_encoding R80, R81: what two lines load. -/
theorem test_loadProgram :
    (loadProgram [lineSetDivider 9, lineTick 0x11] (idleState 0)).rxq = [0x80, 0x09, 0x00, 0x00, 0x00] ∧
    (loadProgram [lineSetDivider 9, lineTick 0x11] (idleState 0)).sched =
      [⟨.hostFrame, 0⟩, ⟨.sampleTimer, 0x11⟩] := by decide
/-- 10_state R38: a tick strobe and a drain handshake present their agents; `host_done` does not without `hbusy`. -/
theorem test_presented :
    presented ⟨true, true, true, true, false⟩ (drainingState 0) = [.sampleTimer, .transmitSide] := by decide
/-- 10_state R38: the strobes of one transition. -/
theorem test_strobes : strobes [.tmrLoad 10] = ⟨true, false, false, none⟩ ∧
    strobes [.hostReq 0x02] = ⟨false, false, false, some 0x02⟩ := by decide

/-! ### Witnesses: a state and operands that meet the hypotheses of each statement -/

theorem witness_DecodeEncodeRoundTrip :
    (Instr.setDivider 0xFFFFFF 0xFF).wellFormed = true ∧ (Instr.setDivider 0xFFFFFF 0xFF).isFrame = true ∧
    (Instr.unrecognized 0xFF).wellFormed = true ∧ (Instr.unrecognized 0xFF).isFrame = true := by decide
theorem witness_EncodeDecodeRoundTrip :
    decode [0xCE, 0xFF, 0x00, 0x01, 0x02, 0x03] = .ok (.longCE ⟨0xFF, 0x00, 0x01, 0x02⟩, [0x03]) := by decide
theorem witness_StepRunsTheTurnsInstruction_frame :
    (withTurns (idleState 0) [⟨.hostFrame, 7⟩, ⟨.sampleTimer, 8⟩] [0x01, 0x02]).sched =
      ⟨.hostFrame, 7⟩ :: [⟨.sampleTimer, 8⟩] ∧ decode [0x01, 0x02] = .ok (.arm, [0x02]) := by decide
/-- Both ways in which the channel holds no whole frame; also for FrameTurnIsItsByteTurns, second clause. -/
theorem witness_StepRunsTheTurnsInstruction_noFrame :
    configOk (withTurns (idleState 0) [⟨.hostFrame, 7⟩] [0x80, 0x09]).cfg = true ∧
    (withTurns (idleState 0) [⟨.hostFrame, 7⟩] [0x80, 0x09]).sched = ⟨.hostFrame, 7⟩ :: [] ∧
    decode [0x80, 0x09] = .error (.missingPayload 0x80) ∧ decode [] = .error .noByte := by decide
theorem witness_StepRunsTheTurnsInstruction_events :
    [Agent.gateSequencer, .sampleTimer, .transmitSide, .protocolEncoder, .platform].all
      (fun a => (withTurns (idleState 0) [⟨a, 7⟩] []).sched == ⟨a, 7⟩ :: []) = true := by decide
theorem witness_StepRunsTheTurnsInstruction_wait :
    (idleState 0).sched = [] ∧ configOk (idleState 0).cfg = true := by decide
theorem witness_PlacedFrameRunsNext : decodeTableWord 40 0x0000000980 = some (.setDivider 9 0) := by decide
theorem witness_FrameTurnIsItsByteTurns :
    configOk (withTurns (idleState 0) [⟨.hostFrame, 7⟩] [0x80, 1, 2, 3, 4, 5]).cfg = true ∧
    (withTurns (idleState 0) [⟨.hostFrame, 7⟩] [0x80, 1, 2, 3, 4, 5]).sched = ⟨.hostFrame, 7⟩ :: [] ∧
    decode [0x80, 1, 2, 3, 4, 5] = .ok (.setDivider 0x030201 4, [5]) := by decide
theorem witness_ByteAcceptedExactlyWhenReady_accepted :
    configOk (withTurns (samplingState 1 0) [⟨.hostByte, 7⟩] [0x02, 0x03]).cfg = true ∧
    (withTurns (samplingState 1 0) [⟨.hostByte, 7⟩] [0x02, 0x03]).sched = ⟨.hostByte, 7⟩ :: [] ∧
    (withTurns (samplingState 1 0) [⟨.hostByte, 7⟩] [0x02, 0x03]).rxq = 0x02 :: [0x03] ∧
    rxReady (withTurns (samplingState 1 0) [⟨.hostByte, 7⟩] [0x02, 0x03]) = true := by decide
theorem witness_ByteAcceptedExactlyWhenReady_waits :
    configOk (withTurns (drainingState 1) [⟨.hostByte, 7⟩] [0x02]).cfg = true ∧
    (withTurns (drainingState 1) [⟨.hostByte, 7⟩] [0x02]).sched = ⟨.hostByte, 7⟩ :: [] ∧
    (withTurns (drainingState 1) [⟨.hostByte, 7⟩] [0x02]).rxq = 0x02 :: [] ∧
    rxReady (withTurns (drainingState 1) [⟨.hostByte, 7⟩] [0x02]) = false := by decide
theorem witness_FramesWaitUntilReady :
    configOk (gatingState 3 0).cfg = true ∧ rxReady (gatingState 3 0) = false ∧ Instr.arm.isFrame = true := by decide
/-- For ResetCommandChangesNothing, HandoffCommandsSetBusy, SetDividerLoadsThePeriod and LongFramesChangeNothing, in both
capture states that accept a byte. -/
theorem witness_frameStart :
    (configOk (idleState 0).cfg = true ∧ rxReady (idleState 0) = true ∧ (idleState 0).pstate = .cmd) ∧
    (configOk (samplingState 1 0).cfg = true ∧ rxReady (samplingState 1 0) = true ∧
      (samplingState 1 0).pstate = .cmd) := by decide
theorem witness_UnrecognizedByteChangesNothing :
    configOk (idleState 0).cfg = true ∧ rxReady (idleState 0) = true ∧ (idleState 0).pstate = .cmd ∧
    (Instr.unrecognized 0x03).wellFormed = true ∧ (Instr.unrecognized 0xFF).wellFormed = true := by decide
theorem witness_ArmStartsTheGate_zeroBudget :
    configOk (State.resetWith zeroBudget).cfg = true ∧ rxReady (State.resetWith zeroBudget) = true ∧
    (State.resetWith zeroBudget).pstate = .cmd ∧ (State.resetWith zeroBudget).fsm = .idle ∧
    (State.resetWith zeroBudget).cfg.gateTimeout = 0 := by decide
theorem witness_ArmStartsTheGate_countdown :
    configOk (idleState 0).cfg = true ∧ rxReady (idleState 0) = true ∧ (idleState 0).pstate = .cmd ∧
    (idleState 0).fsm = .idle ∧ (idleState 0).cfg.gateTimeout ≠ 0 := by decide
theorem witness_ArmStartsTheGate_sampling :
    configOk (samplingState 0 0).cfg = true ∧ rxReady (samplingState 0 0) = true ∧
    (samplingState 0 0).pstate = .cmd ∧ (samplingState 0 0).fsm = .sampling := by decide
theorem witness_LongFormatCommandByte_divider :
    configOk (withTurns (idleState 0) [⟨.hostByte, 7⟩] [0x80]).cfg = true ∧
    rxReady (withTurns (idleState 0) [⟨.hostByte, 7⟩] [0x80]) = true ∧
    (withTurns (idleState 0) [⟨.hostByte, 7⟩] [0x80]).pstate = .cmd ∧
    (withTurns (idleState 0) [⟨.hostByte, 7⟩] [0x80]).sched = ⟨.hostByte, 7⟩ :: [] ∧
    (withTurns (idleState 0) [⟨.hostByte, 7⟩] [0x80]).rxq = 0x80 :: [] := by decide
theorem witness_LongFormatCommandByte_long :
    configOk (withTurns (idleState 0) [⟨.hostByte, 7⟩] [0x82]).cfg = true ∧
    rxReady (withTurns (idleState 0) [⟨.hostByte, 7⟩] [0x82]) = true ∧
    (withTurns (idleState 0) [⟨.hostByte, 7⟩] [0x82]).pstate = .cmd ∧
    (withTurns (idleState 0) [⟨.hostByte, 7⟩] [0x82]).sched = ⟨.hostByte, 7⟩ :: [] ∧
    (withTurns (idleState 0) [⟨.hostByte, 7⟩] [0x82]).rxq = 0x82 :: [] ∧ (0x82 : Byte) ∈ longOps := by decide
/-- Both clauses at their boundary values: the last divider byte, n = 2, and the pad byte, n = 3. -/
theorem witness_DividerPayloadByte :
    [(2 : Fin 4), 3].all (fun n =>
      configOk (withTurns { idleState 0 with pstate := .divPay n } [⟨.hostByte, 7⟩] [0x01]).cfg &&
      rxReady (withTurns { idleState 0 with pstate := .divPay n } [⟨.hostByte, 7⟩] [0x01]) &&
      (withTurns { idleState 0 with pstate := .divPay n } [⟨.hostByte, 7⟩] [0x01]).sched == ⟨.hostByte, 7⟩ :: [] &&
      (withTurns { idleState 0 with pstate := .divPay n } [⟨.hostByte, 7⟩] [0x01]).rxq == 0x01 :: []) = true ∧
    (2 : Fin 4) < 3 := by decide
/-- Both clauses at their boundary values: n = 2 and n = 3. -/
theorem witness_LongPayloadByte :
    [(2 : Fin 4), 3].all (fun n =>
      configOk (withTurns { idleState 0 with pstate := .longPay n } [⟨.hostByte, 7⟩] [0x01]).cfg &&
      rxReady (withTurns { idleState 0 with pstate := .longPay n } [⟨.hostByte, 7⟩] [0x01]) &&
      (withTurns { idleState 0 with pstate := .longPay n } [⟨.hostByte, 7⟩] [0x01]).sched == ⟨.hostByte, 7⟩ :: [] &&
      (withTurns { idleState 0 with pstate := .longPay n } [⟨.hostByte, 7⟩] [0x01]).rxq == 0x01 :: []) = true ∧
    (2 : Fin 4) < 3 := by decide
/-- Also for HistoryOnlyGrows and PeriodWrittenOnlyByThePadByte's premises but the last. -/
theorem witness_ParseStateOnlyByHostOrReset :
    (withTurns (samplingState 0 0x22) [⟨.sampleTimer, 9⟩] []).sched = ⟨.sampleTimer, 9⟩ :: [] ∧
    view (step (withTurns (samplingState 0 0x22) [⟨.sampleTimer, 9⟩] [])) State.buf = some [(0, 9)] := by decide
theorem witness_StalledFrameBlocksNoOtherAgent :
    [Instr.gateStep, .tick, .drainStep, .hostDone].all
      (fun i => (view (exec i (samplingState 0 0)) State.cfg).isSome) = true := by decide
theorem witness_HostDoneClearsBusy :
    configOk ({ idleState 0 with hbusy := true } : State).cfg = true ∧
    ({ idleState 0 with hbusy := true } : State).hbusy = true := by decide
/-- Clause by clause: a change at countdown 1; no change at 1; no change at 2. -/
theorem witness_GateStepComparesThenCounts :
    (configOk (gatingState 1 0x00).cfg = true ∧ (gatingState 1 0x00).fsm = .gating ∧
      1 ≤ (gatingState 1 0x00).gcnt.toNat ∧ (gatingState 1 0x00).portIn ≠ (gatingState 1 0x00).gref) ∧
    (configOk (gatingState 1 0x5A).cfg = true ∧ (gatingState 1 0x5A).fsm = .gating ∧
      1 ≤ (gatingState 1 0x5A).gcnt.toNat ∧ (gatingState 1 0x5A).portIn = (gatingState 1 0x5A).gref ∧
      (gatingState 1 0x5A).gcnt = 1) ∧
    (configOk (gatingState 2 0x5A).cfg = true ∧ (gatingState 2 0x5A).fsm = .gating ∧
      1 ≤ (gatingState 2 0x5A).gcnt.toNat ∧ (gatingState 2 0x5A).portIn = (gatingState 2 0x5A).gref ∧
      2 ≤ (gatingState 2 0x5A).gcnt.toNat) := by decide
/-- A tick (masked) and one gate turn that sees no change. -/
def gateTurns : List Turn := [⟨.sampleTimer, 1⟩, ⟨.gateSequencer, 0x5A⟩]
/-- Countdown 1, `gateTurns` to come and then a device reset. -/
def gateRun : State := withTurns (gatingState 1 0) (gateTurns ++ [⟨.platform, 0⟩]) []
theorem witness_GateResolvesWithinItsBudget :
    configOk gateRun.cfg = true ∧ gateRun.fsm = .gating ∧ 1 ≤ gateRun.gcnt.toNat ∧
    gateRun.sched = gateTurns ++ [⟨.platform, 0⟩] ∧ NoReset gateTurns ∧
    (portsOf .gateSequencer gateTurns).length = gateRun.gcnt.toNat := by decide
/-- Countdown 2, `gateTurns` to come and then the gate turn that times out. -/
def timeoutRun : State := withTurns (gatingState 2 0) (gateTurns ++ ⟨.gateSequencer, 0x5A⟩ :: []) []
theorem witness_GateTimesOutAtItsBudget :
    configOk timeoutRun.cfg = true ∧ timeoutRun.fsm = .gating ∧
    timeoutRun.sched = gateTurns ++ ⟨.gateSequencer, 0x5A⟩ :: [] ∧ NoReset gateTurns ∧
    (0x5A : Byte) = timeoutRun.gref ∧ (∀ q ∈ portsOf .gateSequencer gateTurns, q = timeoutRun.gref) ∧
    (portsOf .gateSequencer gateTurns).length + 1 = timeoutRun.gcnt.toNat := by decide
/-- Both clauses: `idx` = 0 does not fill a buffer of 2, `idx` = 1 does. -/
theorem witness_TickStoresOneSample :
    configOk (samplingState 0 0).cfg = true ∧ (samplingState 0 0).fsm = .sampling ∧ (samplingState 0 0).tmrIe = true ∧
    (samplingState 0 0).idx.toNat < (samplingState 0 0).cfg.bufferSize ∧
    (samplingState 0 0).idx.toNat + 1 ≠ (samplingState 0 0).cfg.bufferSize ∧
    (samplingState 1 0).idx.toNat < (samplingState 1 0).cfg.bufferSize ∧
    (samplingState 1 0).idx.toNat + 1 = (samplingState 1 0).cfg.bufferSize := by decide
theorem witness_MaskedTickIsDropped :
    configOk (drainingState 0).cfg = true ∧ (drainingState 0).tmrIe = false := by decide
/-- Both clauses: `dptr` = 0 is not the last byte of 2, `dptr` = 1 is. -/
theorem witness_DrainStepSendsOneByte :
    configOk (drainingState 0).cfg = true ∧ (drainingState 0).fsm = .draining ∧
    (drainingState 0).dptr.toNat < (drainingState 0).cfg.bufferSize ∧
    (drainingState 0).dptr.toNat + 1 ≠ (drainingState 0).cfg.bufferSize ∧
    (drainingState 1).dptr.toNat < (drainingState 1).cfg.bufferSize ∧
    (drainingState 1).dptr.toNat + 1 = (drainingState 1).cfg.bufferSize := by decide
theorem witness_EventsNotEnabledWait :
    configOk (idleState 0).cfg = true ∧ (idleState 0).fsm ≠ .gating ∧ (idleState 0).fsm ≠ .draining ∧
    (idleState 0).hbusy = false := by decide
/-- The element that a tick in SAMPLING rewrites. -/
theorem witness_OnlyAnEnabledTickWritesTheBuffer :
    view (exec .tick { samplingState 0 0x22 with buf := [(0, 0x11)] }) (fun t => t.buf.get? 0) = some (some 0x22) ∧
    ({ samplingState 0 0x22 with buf := [(0, 0x11)] } : State).buf.get? 0 = some 0x11 := by decide
/-- Both ways out of SAMPLING. -/
theorem witness_SamplingEndsOnlyWhenFull :
    view (step (withTurns (samplingState 1 0) [⟨.sampleTimer, 9⟩] [])) State.fsm = some .draining ∧
    view (step (withTurns (samplingState 1 0) [⟨.platform, 9⟩] [])) State.fsm = some .idle := by decide
/-- A tick, then a host byte. -/
def captureTurns : List Turn := [⟨.sampleTimer, 1⟩, ⟨.hostByte, 5⟩]
/-- A drain turn, then a tick (masked). -/
def drainTurns : List Turn := [⟨.transmitSide, 1⟩, ⟨.sampleTimer, 5⟩]
/-- The start of a capture of 2 samples with the turns of a whole cycle to come. -/
def captureRun : State :=
  withTurns (samplingState 0 0) (captureTurns ++ ⟨.sampleTimer, 9⟩ :: (drainTurns ++ ⟨.transmitSide, 9⟩ :: [])) [0x02]
/-- For CaptureFillsTheBufferInTickOrder and CycleStreamsTheSamplesInOrder. -/
theorem witness_CycleStreamsTheSamplesInOrder :
    configOk captureRun.cfg = true ∧ captureRun.fsm = .sampling ∧ captureRun.tmrIe = true ∧ captureRun.idx = 0 ∧
    captureRun.sched = captureTurns ++ ⟨.sampleTimer, 9⟩ :: (drainTurns ++ ⟨.transmitSide, 9⟩ :: []) ∧
    NoReset captureTurns ∧ NoReset drainTurns ∧
    (portsOf .sampleTimer captureTurns).length + 1 = captureRun.cfg.bufferSize ∧
    (portsOf .transmitSide drainTurns).length + 1 = captureRun.cfg.bufferSize := by decide
/-- The start of a drain of 2 samples. -/
def drainRun : State := withTurns (drainingState 0) (drainTurns ++ ⟨.transmitSide, 9⟩ :: []) []
theorem witness_DrainSendsTheBufferInOrder :
    configOk drainRun.cfg = true ∧ drainRun.fsm = .draining ∧ drainRun.tmrIe = false ∧ drainRun.dptr = 0 ∧
    drainRun.sched = drainTurns ++ ⟨.transmitSide, 9⟩ :: [] ∧ NoReset drainTurns ∧
    (portsOf .transmitSide drainTurns).length + 1 = drainRun.cfg.bufferSize := by decide
/-- 95_test_vectors V26: both premises of TickAndByteCommute, before the full tick and at it. -/
theorem witness_TickAndByteCommute :
    configOk (samplingState 0 0).cfg = true ∧ (samplingState 0 0).fsm = .sampling ∧ (samplingState 0 0).tmrIe = true ∧
    (samplingState 0 0).idx.toNat < (samplingState 0 0).cfg.bufferSize ∧
    (samplingState 0 0).idx.toNat + 1 ≠ (samplingState 0 0).cfg.bufferSize ∧
    (samplingState 1 0).idx.toNat < (samplingState 1 0).cfg.bufferSize := by decide
/-- The constraints of 00_scope R6 at their smallest and largest values (CFG-D and CFG-C of 95_test_vectors). -/
theorem witness_legalConfigurations :
    configOk ⟨1, 16777216, 16777216, 0⟩ = true ∧
    configOk ⟨4294967295, 4294967295, 4294967295, 4294967295⟩ = true := by decide
theorem witness_PeriodIsMonotone :
    configOk smallConfig = true ∧ (0xFFFFFE : Divider).toNat ≤ (0xFFFFFF : Divider).toNat := by decide
/-- Both clauses: a divider whose successor divides the reference clock, and CFG-A. -/
theorem witness_PeriodIsExactWhenItDivides :
    configOk smallConfig = true ∧ smallConfig.refClkHz = smallConfig.timerClkHz ∧
    ((0xFFFFFF : Divider).toNat + 1) ∣ smallConfig.refClkHz ∧
    exampleConfig.refClkHz = 100000000 ∧ exampleConfig.timerClkHz = 100000000 := by decide
/-- The ways in which PERIOD changes: the pad byte in a byte turn, the pad byte in a frame turn whose channel holds no whole
frame, and device reset. -/
theorem witness_PeriodWrittenOnlyByThePadByte :
    view (step (withTurns { idleState 0 with pstate := .divPay 3, pay := 9 } [⟨.hostByte, 0⟩] [0x00])) State.period =
      some 10 ∧
    view (step (withTurns { idleState 0 with pstate := .divPay 3, pay := 9 } [⟨.hostFrame, 0⟩] [0x80])) State.period =
      some 10 ∧
    decode [0x80] = .error (.missingPayload 0x80) ∧ (idleState 0).period = 1 ∧
    view (step (withTurns { idleState 0 with period := 10 } [⟨.platform, 0⟩] [])) State.period = some 1 := by decide
theorem witness_OnlyABadConfigurationIsRefused :
    configOk ⟨0, 16777216, 16777216, 0⟩ = false ∧ configOk ⟨1, 16777215, 16777216, 0⟩ = false ∧
    configOk ⟨1, 16777216, 16777215, 0⟩ = false ∧ configOk ⟨1, 16777216, 4294967296, 0⟩ = false ∧
    configOk ⟨1, 16777216, 16777216, 4294967296⟩ = false ∧ configOk ⟨4294967296, 16777216, 16777216, 0⟩ = false := by
  decide
/-- Both ways to the fault, at the first index outside. -/
theorem witness_OnlyAnIndexOutsideTheBufferFaults :
    faultOf (exec .tick (samplingState 2 0)) = some .bufferIndex ∧
    faultOf (exec .drainStep (drainingState 2)) = some .bufferIndex ∧
    configOk (samplingState 2 0).cfg = true := by decide

/-- The invariant holds in a state of each phase (for EveryStepKeepsTheMachineInvariant and EveryStepCompletes), and the
machine moves on from SAMPLING (for ConfigurationNeverChanges and InstructionsLeaveTheInputs). -/
theorem witness_Inv_idle : Inv (idleState 0) := by
  refine ⟨by decide, by decide, by decide, by decide, ?_, ?_, by decide⟩
  · exact ⟨fun h => (nomatch h), fun h => (nomatch h)⟩
  · exact fun n h => (nomatch h)
theorem witness_Inv_sampling : Inv (samplingState 1 0) := by
  refine ⟨by decide, by decide, by decide, by decide, ?_, ?_, by decide⟩
  · exact ⟨fun _ => by decide, fun h => (nomatch h)⟩
  · exact fun n h => (nomatch h)
theorem witness_Inv_gating : Inv (gatingState 3 0) := by
  refine ⟨by decide, by decide, by decide, by decide, ?_, ?_, by decide⟩
  · exact ⟨fun h => (nomatch h), fun h => (nomatch h)⟩
  · exact fun n h => (nomatch h)
theorem witness_Inv_draining : Inv (drainingState 1) := by
  refine ⟨by decide, by decide, by decide, by decide, ?_, ?_, by decide⟩
  · exact ⟨fun h => (nomatch h), fun _ => by decide⟩
  · exact fun n h => (nomatch h)
theorem witness_step_moves :
    view (step (withTurns (samplingState 0 7) [⟨.sampleTimer, 9⟩] [])) State.idx = some 1 ∧
    view (exec .tick (samplingState 0 7)) State.idx = some 1 := by decide
/-- A drain turn records its TX (for HistoryOnlyGrows). -/
theorem witness_HistoryOnlyGrows :
    view (step (withTurns (drainingState 0) [⟨.transmitSide, 9⟩] [])) State.hist = some [.tx 0x11] := by decide

end Sys2Proof.Tests
end

section
/-! What an instruction and a step can answer (00_scope R11 to R15): a next state, the refusal of a bad configuration, or
the fault of a buffer index outside; and the obligations O44, O48, O6 and O30 that follow. -/

namespace Sys2Proof.Machine

/-! ### Instructions -/

/-- An instruction is a host frame or one of the five events (30_encoding R70, R79). -/
theorem isFrame_or_event (i : Instr) :
    i.isFrame = true ∨ i = .gateStep ∨ i = .tick ∨ i = .drainStep ∨ i = .hostDone ∨ i = .rst := by
  cases i <;> simp [Instr.isFrame]

/-- No instruction has a meaning on a configuration outside the constraints (00_scope R6, R15). -/
theorem exec_of_badConfiguration (i : Instr) {s : State} (hc : configOk s.cfg = false) :
    exec i s = .refused .badConfiguration := by
  rcases isFrame_or_event i with hf | rfl | rfl | rfl | rfl | rfl
  · exact (exec_frame hf s).trans (whenConfigured_bad hc _)
  all_goals exact whenConfigured_bad hc _

theorem sendFrame_of_configOk {s : State} (bytes : List Byte) (hc : configOk s.cfg = true) :
    sendFrame bytes s = .next (acceptBytes bytes.length { s with rxq := bytes ++ s.rxq }) :=
  whenConfigured_ok hc _

/-! ### Events that are not enabled (00_scope R13) -/

theorem execGateStep_of_not_gating {s : State} (hc : configOk s.cfg = true) (h : s.fsm ≠ .gating) :
    execGateStep s = .next s := by
  rw [execGateStep, whenConfigured_ok hc, if_neg h]

theorem execTick_of_not_enabled {s : State} (hc : configOk s.cfg = true) (h : writeEnable s = false) :
    execTick s = .next s := by
  simp [execTick, hc, h]

theorem execDrainStep_of_not_draining {s : State} (hc : configOk s.cfg = true) (h : s.fsm ≠ .draining) :
    execDrainStep s = .next s := by
  rw [execDrainStep, whenConfigured_ok hc, if_neg h]

theorem execHostDone_of_not_busy {s : State} (hc : configOk s.cfg = true) (h : s.hbusy = false) :
    execHostDone s = .next s := by
  simp [execHostDone, hc, h]

/-! ### The two buffer accesses (20_memory R53) -/

theorem takeSample_inside {s : State} (h : s.idx.toNat < s.cfg.bufferSize) :
    takeSample s = .next (
      if full s then enterDrain { s with buf := s.buf.put s.idx.toNat s.portIn }
      else { s with buf := s.buf.put s.idx.toNat s.portIn, idx := s.idx + 1 }) := by
  simp only [takeSample, memWrite, if_pos h, readPort_eq]

theorem takeSample_outside {s : State} (h : s.cfg.bufferSize ≤ s.idx.toNat) : takeSample s = .fault .bufferIndex := by
  simp only [takeSample, memWrite, if_neg (Nat.not_lt.2 h)]

theorem sendDrainByte_inside {s : State} (h : s.dptr.toNat < s.cfg.bufferSize) :
    sendDrainByte s = .next (
      if lastDrain s then { emit (.tx (bufByte s s.dptr.toNat)) s with dptr := 0, fsm := .idle }
      else { emit (.tx (bufByte s s.dptr.toNat)) s with dptr := s.dptr + 1 }) := by
  simp only [sendDrainByte, memRead, if_pos h, emit_dptr]

theorem sendDrainByte_outside {s : State} (h : s.cfg.bufferSize ≤ s.dptr.toNat) :
    sendDrainByte s = .fault .bufferIndex := by
  simp only [sendDrainByte, memRead, if_neg (Nat.not_lt.2 h)]

theorem execTick_next_or_fault {s : State} (hc : configOk s.cfg = true) :
    (∃ t, execTick s = .next t) ∨
    (execTick s = .fault .bufferIndex ∧ writeEnable s = true ∧ s.cfg.bufferSize ≤ s.idx.toNat) := by
  cases hw : writeEnable s with
  | false => exact .inl ⟨s, execTick_of_not_enabled hc hw⟩
  | true =>
    have hsample : execTick s = takeSample s := by rw [execTick, whenConfigured_ok hc, if_pos hw]
    rw [hsample]
    rcases lt_or_ge s.idx.toNat s.cfg.bufferSize with h | h
    · exact .inl ⟨_, takeSample_inside h⟩
    · exact .inr ⟨takeSample_outside h, rfl, h⟩

theorem execDrainStep_next_or_fault {s : State} (hc : configOk s.cfg = true) :
    (∃ t, execDrainStep s = .next t) ∨
    (execDrainStep s = .fault .bufferIndex ∧ s.fsm = .draining ∧ s.cfg.bufferSize ≤ s.dptr.toNat) := by
  by_cases hd : s.fsm = .draining
  · have hsend : execDrainStep s = sendDrainByte s := by rw [execDrainStep, whenConfigured_ok hc, if_pos hd]
    rw [hsend]
    rcases lt_or_ge s.dptr.toNat s.cfg.bufferSize with h | h
    · exact .inl ⟨_, sendDrainByte_inside h⟩
    · exact .inr ⟨sendDrainByte_outside h, hd, h⟩
  · exact .inl ⟨s, execDrainStep_of_not_draining hc hd⟩

/-! ### What an instruction can answer -/

/-- On a legal configuration an instruction answers a next state, or it is an enabled TICK or DRAIN_STEP whose index lies
outside the buffer. -/
theorem exec_next_or_fault (i : Instr) {s : State} (hc : configOk s.cfg = true) :
    (∃ t, exec i s = .next t) ∨
    (exec i s = .fault .bufferIndex ∧
      ((i = .tick ∧ s.tmrIe = true ∧ s.fsm = .sampling ∧ s.cfg.bufferSize ≤ s.idx.toNat) ∨
       (i = .drainStep ∧ s.fsm = .draining ∧ s.cfg.bufferSize ≤ s.dptr.toNat))) := by
  rcases isFrame_or_event i with hf | rfl | rfl | rfl | rfl | rfl
  · exact .inl ⟨_, (exec_frame hf s).trans (sendFrame_of_configOk _ hc)⟩
  · exact .inl ⟨_, whenConfigured_ok hc _⟩
  · rcases execTick_next_or_fault hc with h | ⟨h, hw, hi⟩
    · exact .inl h
    · obtain ⟨hie, hfsm⟩ := (writeEnable_iff s).1 hw
      exact .inr ⟨h, .inl ⟨rfl, hie, hfsm, hi⟩⟩
  · rcases execDrainStep_next_or_fault hc with h | ⟨h, hfsm, hi⟩
    · exact .inl h
    · exact .inr ⟨h, .inr ⟨rfl, hfsm, hi⟩⟩
  · exact .inl ⟨_, whenConfigured_ok hc _⟩
  · exact .inl ⟨_, whenConfigured_ok hc _⟩

theorem exec_ne_refused (i : Instr) {s : State} (r : Refusal) (hc : configOk s.cfg = true) : exec i s ≠ .refused r := by
  rcases exec_next_or_fault i hc with ⟨t, h⟩ | ⟨h, -⟩ <;> simp [h]

theorem PhaseInv.idx_lt {s : State} (h : PhaseInv s) (hf : s.fsm = .sampling) : s.idx.toNat < s.cfg.bufferSize := by
  obtain ⟨-, -, hsampling, -⟩ := h
  obtain ⟨-, -, hidx, -⟩ := hsampling hf
  exact hidx

theorem PhaseInv.dptr_lt {s : State} (h : PhaseInv s) (hf : s.fsm = .draining) : s.dptr.toNat < s.cfg.bufferSize := by
  obtain ⟨-, -, -, hdraining⟩ := h
  obtain ⟨-, -, -, hdptr⟩ := hdraining hf
  exact hdptr

/-- Where the indices are in their phase's range no instruction faults. -/
theorem exec_completes (i : Instr) {s : State} (hc : configOk s.cfg = true) (hp : PhaseInv s) :
    ∃ t, exec i s = .next t := by
  rcases exec_next_or_fault i hc with h | ⟨-, ⟨-, -, hf, hi⟩ | ⟨-, hf, hi⟩⟩
  · exact h
  · exact absurd (PhaseInv.idx_lt hp hf) (Nat.not_lt.2 hi)
  · exact absurd (PhaseInv.dptr_lt hp hf) (Nat.not_lt.2 hi)

/-! ### What a step can answer -/

theorem step_nil {s : State} (h : s.sched = []) : step s = whenConfigured s (.next s) := by
  simp only [step, nextTurn, h]

theorem step_cons {s : State} {u : Turn} {ts : List Turn} (h : s.sched = u :: ts) :
    step s = agentTurn u.agent { s with sched := ts, portIn := u.port } := by
  simp only [step, nextTurn, h]

theorem hostFrameTurn_of_decode_ok {s : State} {i : Instr} {rest : List Byte} (h : decode s.rxq = .ok (i, rest)) :
    hostFrameTurn s = exec i { s with rxq := rest } := by
  simp only [hostFrameTurn, h]

theorem hostFrameTurn_of_decode_error {s : State} {e : DecodeError} (h : decode s.rxq = .error e) :
    hostFrameTurn s = hostByteTurn s := by
  simp only [hostFrameTurn, h]

/-- A turn is a host byte, or one instruction, which finds at most the channel's bytes changed. -/
theorem agentTurn_byte_or_exec (a : Agent) (s : State) :
    agentTurn a s = hostByteTurn s ∨ ∃ i q, agentTurn a s = exec i { s with rxq := q } := by
  cases a with
  | hostByte => exact .inl rfl
  | hostFrame =>
    cases h : decode s.rxq with
    | ok ir => exact .inr ⟨ir.1, ir.2, hostFrameTurn_of_decode_ok h⟩
    | error e => exact .inl (hostFrameTurn_of_decode_error h)
  | gateSequencer => exact .inr ⟨.gateStep, s.rxq, rfl⟩
  | sampleTimer => exact .inr ⟨.tick, s.rxq, rfl⟩
  | transmitSide => exact .inr ⟨.drainStep, s.rxq, rfl⟩
  | protocolEncoder => exact .inr ⟨.hostDone, s.rxq, rfl⟩
  | platform => exact .inr ⟨.rst, s.rxq, rfl⟩

/-- A step waits or takes a host byte, which a legal configuration always completes, or it runs one instruction on a state
in which only the inputs are changed. -/
theorem step_whenConfigured_or_exec (s : State) :
    (∃ t, step s = whenConfigured s (.next t)) ∨
    (∃ i ts p q, step s = exec i { s with sched := ts, portIn := p, rxq := q }) := by
  cases hs : s.sched with
  | nil => exact .inl ⟨s, step_nil hs⟩
  | cons u ts =>
    rw [step_cons hs]
    rcases agentTurn_byte_or_exec u.agent { s with sched := ts, portIn := u.port } with h | ⟨i, q, h⟩
    · exact .inl ⟨_, h⟩
    · exact .inr ⟨i, ts, u.port, q, h⟩

theorem step_of_badConfiguration {s : State} (hc : configOk s.cfg = false) : step s = .refused .badConfiguration := by
  rcases step_whenConfigured_or_exec s with ⟨t, h⟩ | ⟨i, ts, p, q, h⟩
  · rw [h, whenConfigured_bad hc]
  · rw [h, exec_of_badConfiguration i (by exact hc)]

theorem step_ne_refused {s : State} (r : Refusal) (hc : configOk s.cfg = true) : step s ≠ .refused r := by
  rcases step_whenConfigured_or_exec s with ⟨t, h⟩ | ⟨i, ts, p, q, h⟩
  · simp [h, hc]
  · rw [h]
    exact exec_ne_refused i r hc

theorem step_completes {s : State} (hc : configOk s.cfg = true) (hp : PhaseInv s) : ∃ t, step s = .next t := by
  rcases step_whenConfigured_or_exec s with ⟨t, h⟩ | ⟨i, ts, p, q, h⟩
  · exact ⟨t, h.trans (whenConfigured_ok hc _)⟩
  · rw [h]
    exact exec_completes i hc hp

/-! ### The obligations -/

/-- Settles O44: every meaning passes the configuration check first, and past it the only stop is a fault. -/
theorem onlyABadConfigurationIsRefused : Obligations.OnlyABadConfigurationIsRefused :=
  ⟨configOk_iff, fun i _ hc => exec_of_badConfiguration i hc, fun _ hc => step_of_badConfiguration hc,
    fun i _ r hc => exec_ne_refused i r hc, fun _ r hc => step_ne_refused r hc⟩

/-- Settles O48: the invariant keeps the capture index in SAMPLING and the drain pointer in DRAINING inside the buffer, so
the one fault cannot occur. -/
theorem everyStepCompletes : Obligations.EveryStepCompletes := by
  rintro s ⟨hc, hphase, -⟩
  exact step_completes hc hphase

/-- Settles O6, by the agent of the next turn. -/
theorem stepRunsTheTurnsInstruction : Obligations.StepRunsTheTurnsInstruction := by
  intro s p ts
  refine ⟨fun i rest hs hd => ?frame, fun e hs hd => ?noFrame, step_cons, step_cons, step_cons, step_cons, step_cons,
    fun hs hc => ?wait⟩
  case frame =>
    rw [step_cons hs]
    exact hostFrameTurn_of_decode_ok hd
  case noFrame =>
    rw [step_cons hs, step_cons (s := { s with sched := ⟨.hostByte, p⟩ :: ts }) rfl]
    exact hostFrameTurn_of_decode_error hd
  case wait => rw [step_nil hs, whenConfigured_ok hc]

/-- Settles O30: each of the three events tests its enabling condition and otherwise answers the state it was given. -/
theorem eventsNotEnabledWait : Obligations.EventsNotEnabledWait := fun _ hc =>
  ⟨execGateStep_of_not_gating hc, execDrainStep_of_not_draining hc, execHostDone_of_not_busy hc⟩

end Sys2Proof.Machine
end

section
/-! The machine invariant (10_state R23, R24, R32; 20_memory R64; 41_trigger_gate R135): each of its parts phase by
phase, and that every kind of transition keeps it. -/

namespace Sys2Proof.Machine

variable {s t : State}

/-! ### The parts of the invariant in a known phase -/

theorem phaseInv_iff_of_idle (hf : s.fsm = .idle) :
    PhaseInv s ↔ s.tmrRun = false ∧ s.tmrIe = false ∧ s.idx = 0 ∧ s.dptr = 0 := by
  simp [PhaseInv, hf]

theorem phaseInv_iff_of_gating (hf : s.fsm = .gating) :
    PhaseInv s ↔ s.tmrRun = false ∧ s.tmrIe = false ∧ s.idx = 0 ∧ s.dptr = 0 ∧
      1 ≤ s.gcnt.toNat ∧ s.gcnt.toNat ≤ s.cfg.gateTimeout := by
  simp [PhaseInv, hf]

theorem phaseInv_iff_of_sampling (hf : s.fsm = .sampling) :
    PhaseInv s ↔ s.tmrRun = true ∧ s.tmrIe = true ∧ s.idx.toNat < s.cfg.bufferSize ∧ s.dptr = 0 := by
  simp [PhaseInv, hf]

theorem phaseInv_iff_of_draining (hf : s.fsm = .draining) :
    PhaseInv s ↔ s.tmrRun = false ∧ s.tmrIe = false ∧ s.idx = 0 ∧ s.dptr.toNat < s.cfg.bufferSize := by
  simp [PhaseInv, hf]

theorem writtenInv_iff_of_sampling (hf : s.fsm = .sampling) :
    WrittenInv s ↔ ∀ j < s.idx.toNat, (s.buf.get? j).isSome = true := by
  simp [WrittenInv, hf]

theorem writtenInv_iff_of_draining (hf : s.fsm = .draining) :
    WrittenInv s ↔ ∀ j < s.cfg.bufferSize, (s.buf.get? j).isSome = true := by
  simp [WrittenInv, hf]

/-- No element need be written before the sampling begins or after the drain is over. -/
theorem writtenInv_of_idle_or_gating (hf : s.fsm = .idle ∨ s.fsm = .gating) : WrittenInv s := by
  rcases hf with hf | hf <;> simp [WrittenInv, hf]

/-- Where no divider byte is due, `pay` is free. -/
theorem payInv_of_not_divPay (hp : ∀ n, s.pstate ≠ .divPay n) : PayInv s := fun n h => absurd h (hp n)

theorem handoffInv_of_not_gating (hf : s.fsm ≠ .gating) : HandoffInv s := fun hg => absurd hg hf

/-! ### The legal values of PERIOD (44_divider R182) -/

/-- On a legal configuration the period of every 24-bit divider is a legal value of PERIOD. -/
theorem periodOf_bounds {c : Config} (hc : configOk c = true) (x : Divider) :
    1 ≤ periodOf c x.toNat ∧ periodOf c x.toNat ≤ c.timerClkHz := by
  obtain ⟨-, -, href, hle, -, -⟩ := (configOk_iff c).1 hc
  have hx := x.isLt
  have hrate : 1 ≤ rate c x.toNat := (Nat.one_le_div_iff (by omega)).2 (by omega)
  have hmax : rate c x.toNat ≤ c.refClkHz := Nat.div_le_self _ _
  exact ⟨(Nat.one_le_div_iff hrate).2 (by omega), Nat.div_le_self _ _⟩

/-- The narrowing to the 32 bits of PERIOD changes no period (log 10). -/
theorem toNat_periodOf {c : Config} (hc : configOk c = true) (x : Divider) :
    (BitVec.ofNat 32 (periodOf c x.toNat)).toNat = periodOf c x.toNat := by
  obtain ⟨-, hmax⟩ := periodOf_bounds hc x
  obtain ⟨-, -, -, -, htimer, -⟩ := (configOk_iff c).1 hc
  rw [BitVec.toNat_ofNat, Nat.mod_eq_of_lt (by omega)]

theorem periodInv_of_period_eq (hc : configOk s.cfg = true) (x : Divider)
    (hp : s.period = BitVec.ofNat 32 (periodOf s.cfg x.toNat)) : PeriodInv s := by
  rw [PeriodInv, hp, toNat_periodOf hc]
  exact periodOf_bounds hc x

/-! ### Device reset -/

/-- The value PERIOD has after reset is the period of divider 0 (10_state R39, 44_divider R184). -/
theorem periodOf_zero (c : Config) : periodOf c (0 : Divider).toNat = c.timerClkHz / c.refClkHz := by
  simp [periodOf, rate]

theorem inv_resetWith {c : Config} (hc : configOk c = true) : Inv (State.resetWith c) := by
  have hphase : PhaseInv (State.resetWith c) := (phaseInv_iff_of_idle rfl).2 ⟨rfl, rfl, rfl, rfl⟩
  have hperiod : PeriodInv (State.resetWith c) := periodInv_of_period_eq hc 0 (by rw [periodOf_zero]; rfl)
  have hbuf : BufferInv (State.resetWith c) := ⟨rfl, by simp [State.resetWith]⟩
  exact ⟨hc, hphase, hperiod, hbuf, writtenInv_of_idle_or_gating (.inl rfl),
    payInv_of_not_divPay (by simp [State.resetWith]), fun _ => rfl⟩

/-- Device reset enters a state that agrees with the reset state in every part the invariant speaks of. -/
theorem inv_deviceReset (hc : configOk s.cfg = true) : Inv (deviceReset s) := inv_resetWith hc

/-! ### The gate and the entry into a capture -/

/-- CapStart before any sample, with both indices at 0, enters SAMPLING with nothing that need be written yet. -/
theorem inv_capStart (hc : configOk s.cfg = true) (hidx : s.idx = 0) (hdptr : s.dptr = 0) (hperiod : PeriodInv s)
    (hbuf : BufferInv s) (hpay : PayInv s) : Inv (capStart s) := by
  have hsize : 1 ≤ s.cfg.bufferSize := ((configOk_iff s.cfg).1 hc).1
  have hphase : PhaseInv (capStart s) := (phaseInv_iff_of_sampling rfl).2 ⟨rfl, rfl, by simp [hidx]; omega, hdptr⟩
  have hwritten : WrittenInv (capStart s) := (writtenInv_iff_of_sampling rfl).2 (by simp [hidx])
  exact ⟨hc, hphase, hperiod, hbuf, hwritten, hpay, handoffInv_of_not_gating (by simp)⟩

/-- GateStart in IDLE, where no hand-off is outstanding (41_trigger_gate R130). -/
theorem inv_gateStart (hf : s.fsm = .idle) (hbusy : s.hbusy = false) (h : Inv s) : Inv (gateStart s) := by
  obtain ⟨hc, hphase, hperiod, hbuf, -, hpay, -⟩ := h
  obtain ⟨hrun, hie, -, hdptr⟩ := (phaseInv_iff_of_idle hf).1 hphase
  rcases gateStart_cases s with ⟨-, e⟩ | ⟨hbudget, e⟩ <;> rw [e]
  · exact inv_capStart hc rfl hdptr hperiod hbuf hpay
  · obtain ⟨-, -, -, -, -, hmax⟩ := (configOk_iff s.cfg).1 hc
    have hgcnt : (BitVec.ofNat 32 s.cfg.gateTimeout).toNat = s.cfg.gateTimeout := by
      rw [BitVec.toNat_ofNat, Nat.mod_eq_of_lt (by omega)]
    refine ⟨hc, (phaseInv_iff_of_gating rfl).2 ⟨hrun, hie, rfl, hdptr, ?_, hgcnt.le⟩, hperiod, hbuf,
      writtenInv_of_idle_or_gating (.inr rfl), hpay, fun _ => hbusy⟩
    rw [hgcnt]
    exact Nat.one_le_iff_ne_zero.2 hbudget

theorem inv_of_execGateStep (h : execGateStep s = .next t) (hs : Inv s) : Inv t := by
  obtain ⟨-, h⟩ := execGateStep_cases h
  rcases h with ⟨-, rfl⟩ | h
  · exact hs
  have hf : s.fsm = .gating := by tauto
  obtain ⟨hc, hphase, hperiod, hbuf, -, hpay, hhandoff⟩ := hs
  obtain ⟨hrun, hie, hidx, hdptr, hpos, hmax⟩ := (phaseInv_iff_of_gating hf).1 hphase
  rcases h with ⟨-, -, rfl⟩ | ⟨-, -, -, rfl⟩ | ⟨-, -, hne, rfl⟩
  · exact inv_capStart hc hidx hdptr hperiod hbuf hpay
  · exact inv_capStart hc hidx hdptr hperiod hbuf hpay
  · have hgcnt : (s.gcnt - 1).toNat = s.gcnt.toNat - 1 := by bv_omega
    have hne : s.gcnt.toNat ≠ 1 := fun e => hne (BitVec.eq_of_toNat_eq e)
    refine ⟨hc, (phaseInv_iff_of_gating (by exact hf)).2 ⟨hrun, hie, hidx, hdptr, ?_, ?_⟩, hperiod, hbuf,
      writtenInv_of_idle_or_gating (.inr hf), hpay, hhandoff⟩ <;> simp only [hgcnt] <;> omega

/-! ### The front end -/

theorem inv_armCommand (hr : rxReady s = true) (h : Inv s) : Inv (armCommand s) := by
  unfold armCommand
  split
  · next hf => exact inv_gateStart hf ((rxReady_iff s).1 hr).2 h
  · exact h

/-- No byte is accepted in GATING, so no hand-off begins there (40_command_front_end R100). -/
theorem not_gating_of_rxReady (hr : rxReady s = true) : s.fsm ≠ .gating := by
  obtain ⟨hf | hf, -⟩ := (rxReady_iff s).1 hr <;> simp [hf]

/-- An accepted byte keeps the invariant. Only ARM moves the capture; the other bytes touch the parse state, `pay`,
PERIOD and `hbusy`. -/
theorem inv_rxByte (b : Byte) (hr : rxReady s = true) (h : Inv s) : Inv (rxByte b s) := by
  have hng := not_gating_of_rxReady hr
  have ⟨hc, hphase, hperiod, hbuf, hwritten, hpay, hhandoff⟩ := h
  rcases rxByte_cases b s with ⟨-, -, e⟩ | ⟨-, -, e⟩ | ⟨-, -, e⟩ | ⟨-, -, e⟩ | ⟨-, -, e⟩ | ⟨-, -, e⟩ |
    ⟨n, hp, hn, e⟩ | ⟨-, e⟩ | ⟨n, -, -, e⟩ | ⟨-, e⟩ <;> rw [e]
  · exact h
  · exact inv_armCommand hr h
  · exact ⟨hc, hphase, hperiod, hbuf, hwritten, hpay, handoffInv_of_not_gating hng⟩
  · exact ⟨hc, hphase, hperiod, hbuf, hwritten, hpay, handoffInv_of_not_gating hng⟩
  · refine ⟨hc, hphase, hperiod, hbuf, hwritten, ?_, hhandoff⟩
    simp [PayInv]
  · exact ⟨hc, hphase, hperiod, hbuf, hwritten, payInv_of_not_divPay (by simp), hhandoff⟩
  · refine ⟨hc, hphase, hperiod, hbuf, hwritten, fun m hm => ?_, hhandoff⟩
    obtain rfl : n + 1 = m := PState.divPay.inj hm
    exact setPayByte_lt hn b (hpay n hp)
  · exact ⟨hc, hphase, periodInv_of_period_eq hc s.pay rfl, hbuf, hwritten, payInv_of_not_divPay (by simp), hhandoff⟩
  · exact ⟨hc, hphase, hperiod, hbuf, hwritten, payInv_of_not_divPay (by simp), hhandoff⟩
  · exact ⟨hc, hphase, hperiod, hbuf, hwritten, payInv_of_not_divPay (by simp), hhandoff⟩

theorem inv_acceptByte (h : Inv s) : Inv (acceptByte s) := by
  rcases acceptByte_cases s with ⟨-, e⟩ | ⟨-, e⟩ | ⟨b, rest, -, hr, e⟩ <;> rw [e]
  · exact h
  · exact h
  · exact inv_rxByte b (s := { s with rxq := rest }) hr h

/-! ### The ring controller and the hand-off -/

/-- A sample written inside the buffer keeps the buffer's form. -/
theorem bufferInv_put (hbuf : BufferInv s) {i : Nat} (hi : i < s.cfg.bufferSize) (v : Byte) :
    BufferInv { s with buf := s.buf.put i v } := by
  obtain ⟨hwf, hlt⟩ := hbuf
  refine ⟨Memory.wf_put i v hwf, fun c hcell => ?_⟩
  rcases Memory.mem_put hcell with rfl | hold
  · exact hi
  · exact hlt c hold

/-- Where every element below an index is written, a write at that index makes it every element up to it. -/
theorem isSome_get?_put {m : Memory} {i : Nat} (hm : ∀ j < i, (m.get? j).isSome = true) (v : Byte) :
    ∀ j < i + 1, ((m.put i v).get? j).isSome = true := by
  intro j hj
  rcases eq_or_ne j i with rfl | hne
  · simp [Memory.get?_put_same]
  · rw [Memory.get?_put_other m v hne]
    exact hm j (by omega)

theorem full_iff (s : State) : full s = true ↔ s.idx.toNat + 1 = s.cfg.bufferSize := by simp [full]

theorem lastDrain_iff (s : State) : lastDrain s = true ↔ s.dptr.toNat + 1 = s.cfg.bufferSize := by simp [lastDrain]

/-- An index inside the buffer does not wrap when it advances (20_memory R53). -/
theorem toNat_add_one_of_lt_bufferSize {c : Config} (hc : configOk c = true) {i : Word} (hi : i.toNat < c.bufferSize) :
    (i + 1).toNat = i.toNat + 1 := by
  obtain ⟨-, hsize, -⟩ := (configOk_iff c).1 hc
  bv_omega

theorem inv_of_execTick (h : execTick s = .next t) (hs : Inv s) : Inv t := by
  obtain ⟨-, h⟩ := execTick_cases h
  rcases h with ⟨-, rfl⟩ | h
  · exact hs
  have hf : s.fsm = .sampling := ((writeEnable_iff s).1 (by tauto)).2
  obtain ⟨hc, hphase, hperiod, hbuf, hwritten, hpay, hhandoff⟩ := hs
  obtain ⟨hrun, hie, hidx, hdptr⟩ := (phaseInv_iff_of_sampling hf).1 hphase
  have hput := isSome_get?_put ((writtenInv_iff_of_sampling hf).1 hwritten) s.portIn
  have hbuf := bufferInv_put hbuf hidx s.portIn
  rcases h with ⟨-, -, hfull, rfl⟩ | ⟨-, -, hfull, rfl⟩
  · have hnext := toNat_add_one_of_lt_bufferSize hc hidx
    have hfull : s.idx.toNat + 1 ≠ s.cfg.bufferSize := mt (full_iff s).2 (by simp [hfull])
    refine ⟨hc, (phaseInv_iff_of_sampling (by exact hf)).2 ⟨hrun, hie, ?_, hdptr⟩, hperiod, hbuf,
      (writtenInv_iff_of_sampling (by exact hf)).2 ?_, hpay, hhandoff⟩
    · simp only [hnext]; omega
    · simpa only [hnext] using hput
  · have hsize : s.idx.toNat + 1 = s.cfg.bufferSize := (full_iff s).1 hfull
    refine ⟨hc, (phaseInv_iff_of_draining rfl).2 ⟨rfl, rfl, rfl, ?_⟩, hperiod, hbuf,
      (writtenInv_iff_of_draining rfl).2 (hsize ▸ hput), hpay, handoffInv_of_not_gating (by simp)⟩
    simp only [enterDrain_dptr, enterDrain_cfg]
    exact Nat.zero_lt_of_lt hidx

theorem inv_of_execDrainStep (h : execDrainStep s = .next t) (hs : Inv s) : Inv t := by
  obtain ⟨-, h⟩ := execDrainStep_cases h
  have ⟨hc, hphase, hperiod, hbuf, hwritten, hpay, hhandoff⟩ := hs
  rcases h with ⟨-, rfl⟩ | ⟨hf, hdptr, hlast, rfl⟩ | ⟨hf, -, -, rfl⟩
  · exact hs
  · obtain ⟨hrun, hie, hidx, -⟩ := (phaseInv_iff_of_draining hf).1 hphase
    have hnext := toNat_add_one_of_lt_bufferSize hc hdptr
    have hlast : s.dptr.toNat + 1 ≠ s.cfg.bufferSize := mt (lastDrain_iff s).2 (by simp [hlast])
    refine ⟨hc, (phaseInv_iff_of_draining (by exact hf)).2 ⟨hrun, hie, hidx, ?_⟩, hperiod, hbuf, hwritten, hpay,
      hhandoff⟩
    simp only [hnext]
    omega
  · obtain ⟨hrun, hie, hidx, -⟩ := (phaseInv_iff_of_draining hf).1 hphase
    exact ⟨hc, (phaseInv_iff_of_idle rfl).2 ⟨hrun, hie, hidx, rfl⟩, hperiod, hbuf,
      writtenInv_of_idle_or_gating (.inl rfl), hpay, handoffInv_of_not_gating (by simp)⟩

theorem inv_of_execHostDone (h : execHostDone s = .next t) (hs : Inv s) : Inv t := by
  obtain ⟨hc, rfl⟩ := execHostDone_cases h
  obtain ⟨-, hphase, hperiod, hbuf, hwritten, hpay, -⟩ := hs
  exact ⟨hc, hphase, hperiod, hbuf, hwritten, hpay, fun _ => rfl⟩

theorem execRst_cases (h : execRst s = .next t) : configOk s.cfg = true ∧ t = deviceReset s := by
  obtain ⟨hc, h⟩ := whenConfigured_next h
  cases h
  exact ⟨hc, rfl⟩

theorem inv_of_execRst (h : execRst s = .next t) : Inv t := by
  obtain ⟨hc, rfl⟩ := execRst_cases h
  exact inv_deviceReset hc

end Sys2Proof.Machine
end

section
/-! What the transitions leave alone and what they record: the configuration (10_state R40), the inputs (10_state R38,
00_scope R13, R16) and the event history (10_state R37, 20_memory R59). -/

namespace Sys2Proof.Machine

variable {s t : State}

/-! ### The configuration and the inputs -/

theorem acceptBytes_frame (n : Nat) (s : State) :
    (acceptBytes n s).cfg = s.cfg ∧ (acceptBytes n s).portIn = s.portIn ∧ (acceptBytes n s).sched = s.sched := by
  refine acceptBytes_keeps (P := fun u => u.cfg = s.cfg ∧ u.portIn = s.portIn ∧ u.sched = s.sched) ?_ n ⟨rfl, rfl, rfl⟩
  rintro u ⟨hcfg, hport, hsched⟩
  obtain ⟨ecfg, eport, esched, -⟩ := acceptByte_frame u
  exact ⟨ecfg.trans hcfg, eport.trans hport, esched.trans hsched⟩

/-- A host frame takes bytes from the channel, and leaves the other inputs. -/
theorem exec_hostFrame_inputs {i : Instr} (hi : i.isFrame = true) (h : exec i s = .next t) :
    t.portIn = s.portIn ∧ t.sched = s.sched := by
  rw [exec_frame hi] at h
  obtain ⟨-, rfl⟩ := sendFrame_next h
  exact (acceptBytes_frame _ _).2

theorem exec_event_inputs {i : Instr} (hi : i.isFrame = false) (h : exec i s = .next t) :
    t.cfg = s.cfg ∧ t.portIn = s.portIn ∧ t.sched = s.sched ∧ t.rxq = s.rxq := by
  rcases isFrame_or_event i with hf | rfl | rfl | rfl | rfl | rfl
  · simp [hi] at hf
  · obtain ⟨-, ⟨-, rfl⟩ | ⟨-, -, rfl⟩ | ⟨-, -, -, rfl⟩ | ⟨-, -, -, rfl⟩⟩ := execGateStep_cases h <;> simp
  · obtain ⟨-, ⟨-, rfl⟩ | ⟨-, -, -, rfl⟩ | ⟨-, -, -, rfl⟩⟩ := execTick_cases h <;> simp
  · obtain ⟨-, ⟨-, rfl⟩ | ⟨-, -, -, rfl⟩ | ⟨-, -, -, rfl⟩⟩ := execDrainStep_cases h <;> simp
  · obtain ⟨-, rfl⟩ := execHostDone_cases h
    simp
  · obtain ⟨-, rfl⟩ := execRst_cases h
    simp

/-! ### The event history -/

/-- From the first state to the second the event history grows, by no TX event. -/
def AppendsWithoutTx (s t : State) : Prop := ∃ es, t.hist = s.hist ++ es ∧ ∀ b, OutEvent.tx b ∉ es

theorem AppendsWithoutTx.of_hist_eq (h : t.hist = s.hist) : AppendsWithoutTx s t := ⟨[], by simp [h], by simp⟩

theorem AppendsWithoutTx.of_hist_append {e : OutEvent} (h : t.hist = s.hist ++ [e]) (he : ∀ b, e ≠ .tx b) :
    AppendsWithoutTx s t :=
  ⟨[e], h, fun b hb => he b (List.mem_singleton.1 hb).symm⟩

theorem AppendsWithoutTx.trans {u : State} (h : AppendsWithoutTx s t) (g : AppendsWithoutTx t u) :
    AppendsWithoutTx s u := by
  obtain ⟨es, hes, hno⟩ := h
  obtain ⟨fs, hfs, hno'⟩ := g
  exact ⟨es ++ fs, by rw [hfs, hes, List.append_assoc], by simp [hno, hno']⟩

/-- The events an accepted byte can record are TMR_START by ARM, HOST_REQ and TMR_LOAD. -/
theorem rxByte_appendsWithoutTx (b : Byte) (s : State) : AppendsWithoutTx s (rxByte b s) := by
  rcases rxByte_cases b s with ⟨-, -, e⟩ | ⟨-, -, e⟩ | ⟨-, -, e⟩ | ⟨-, -, e⟩ | ⟨-, -, e⟩ | ⟨-, -, e⟩ |
    ⟨n, -, -, e⟩ | ⟨-, e⟩ | ⟨n, -, -, e⟩ | ⟨-, e⟩ <;> rw [e]
  · exact .of_hist_eq rfl
  · obtain ⟨-, -, -, -, happends⟩ := armCommand_frame s
    exact happends
  · exact .of_hist_append (queryCommand_hist s) (by simp)
  · exact .of_hist_append (getMetadataCommand_hist s) (by simp)
  · exact .of_hist_eq rfl
  · exact .of_hist_eq rfl
  · exact .of_hist_eq rfl
  · exact .of_hist_append (divLoad_hist s s.pay) (by simp)
  · exact .of_hist_eq rfl
  · exact .of_hist_eq rfl

theorem acceptByte_appendsWithoutTx (s : State) : AppendsWithoutTx s (acceptByte s) := by
  rcases acceptByte_cases s with ⟨-, e⟩ | ⟨-, e⟩ | ⟨b, rest, -, -, e⟩ <;> rw [e]
  · exact .of_hist_eq rfl
  · exact .of_hist_eq rfl
  · exact rxByte_appendsWithoutTx b { s with rxq := rest }

theorem acceptBytes_appendsWithoutTx (n : Nat) (s : State) : AppendsWithoutTx s (acceptBytes n s) :=
  acceptBytes_keeps (P := AppendsWithoutTx s) (fun u h => h.trans (acceptByte_appendsWithoutTx u)) n (.of_hist_eq rfl)

theorem hostByteTurn_appendsWithoutTx (h : hostByteTurn s = .next t) : AppendsWithoutTx s t := by
  obtain ⟨-, h⟩ := whenConfigured_next h
  cases h
  exact acceptByte_appendsWithoutTx s

theorem hostFrameTurn_appendsWithoutTx (h : hostFrameTurn s = .next t) : AppendsWithoutTx s t := by
  cases hd : decode s.rxq with
  | ok ir =>
    rw [hostFrameTurn_of_decode_ok hd, exec_frame (decode_isFrame hd)] at h
    obtain ⟨-, rfl⟩ := sendFrame_next h
    exact acceptBytes_appendsWithoutTx _ _
  | error e =>
    rw [hostFrameTurn_of_decode_error hd] at h
    exact hostByteTurn_appendsWithoutTx h

theorem execGateStep_appendsWithoutTx (h : execGateStep s = .next t) : AppendsWithoutTx s t := by
  obtain ⟨-, ⟨-, rfl⟩ | ⟨-, -, rfl⟩ | ⟨-, -, -, rfl⟩ | ⟨-, -, -, rfl⟩⟩ := execGateStep_cases h
  · exact .of_hist_eq rfl
  · exact .of_hist_append (capStart_hist s) (by simp)
  · exact .of_hist_append (capStart_hist { s with gcnt := 0 }) (by simp)
  · exact .of_hist_eq rfl

theorem execTick_appendsWithoutTx (h : execTick s = .next t) : AppendsWithoutTx s t := by
  obtain ⟨-, ⟨-, rfl⟩ | ⟨-, -, -, rfl⟩ | ⟨-, -, -, rfl⟩⟩ := execTick_cases h
  · exact .of_hist_eq rfl
  · exact .of_hist_eq rfl
  · exact .of_hist_append (enterDrain_hist { s with buf := s.buf.put s.idx.toNat s.portIn }) (by simp)

theorem execHostDone_appendsWithoutTx (h : execHostDone s = .next t) : AppendsWithoutTx s t := by
  obtain ⟨-, rfl⟩ := execHostDone_cases h
  exact .of_hist_eq rfl

/-- Of the agents that keep the history only the transmit side can record a TX event. -/
theorem agentTurn_appendsWithoutTx {a : Agent} (hp : a ≠ .platform) (hx : a ≠ .transmitSide)
    (h : agentTurn a s = .next t) : AppendsWithoutTx s t := by
  cases a with
  | hostByte => exact hostByteTurn_appendsWithoutTx h
  | hostFrame => exact hostFrameTurn_appendsWithoutTx h
  | gateSequencer => exact execGateStep_appendsWithoutTx h
  | sampleTimer => exact execTick_appendsWithoutTx h
  | transmitSide => exact absurd rfl hx
  | protocolEncoder => exact execHostDone_appendsWithoutTx h
  | platform => exact absurd rfl hp

/-- DRAIN_STEP records the TX of the element at `dptr` in DRAINING, and nothing elsewhere (42_ring_controller R156). -/
theorem execDrainStep_hist (h : execDrainStep s = .next t) :
    t.hist = s.hist ∨ (s.fsm = .draining ∧ t.hist = s.hist ++ [.tx (bufByte s s.dptr.toNat)]) := by
  obtain ⟨-, ⟨-, rfl⟩ | ⟨hf, -, -, rfl⟩ | ⟨hf, -, -, rfl⟩⟩ := execDrainStep_cases h
  · exact .inl rfl
  · exact .inr ⟨hf, rfl⟩
  · exact .inr ⟨hf, rfl⟩

/-! ### The encodings (10_state R22, R31) -/

@[simp] theorem PState.toNat_bits_cmd : PState.cmd.bits.toNat = 0 := rfl

@[simp] theorem PState.toNat_bits_divPay (n : Fin 4) : (PState.divPay n).bits.toNat = 1 + n.val := by
  simp only [PState.bits, BitVec.toNat_ofNat]
  omega

@[simp] theorem PState.toNat_bits_longPay (n : Fin 4) : (PState.longPay n).bits.toNat = 5 + n.val := by
  simp only [PState.bits, BitVec.toNat_ofNat]
  omega

theorem Fsm.bits_injective (a b : Fsm) (h : a.bits = b.bits) : a = b := by
  cases a <;> cases b <;> simp [Fsm.bits] at h ⊢

theorem PState.bits_injective (a b : PState) (h : a.bits = b.bits) : a = b := by
  have hcode : a.bits.toNat = b.bits.toNat := congrArg BitVec.toNat h
  cases a <;> cases b <;> simp at hcode ⊢ <;> omega

end Sys2Proof.Machine
end

section
/-! The obligations of the family 10_state. -/

namespace Sys2Proof.Machine

/-- Settles O46: every kind of transition keeps the invariant, and the inputs stand in none of its parts. -/
theorem everyStepKeepsTheMachineInvariant : Obligations.EveryStepKeepsTheMachineInvariant := fun _ _ hs h =>
  step_keeps (P := Inv) (fun _ _ _ h => h) (fun _ _ h => h) (fun _ _ h => inv_acceptByte h)
    (fun _ _ => inv_of_execGateStep) (fun _ _ => inv_of_execTick) (fun _ _ => inv_of_execDrainStep)
    (fun _ _ => inv_of_execHostDone) (fun _ _ h _ => inv_of_execRst h) h hs

/-- Settles O47: the reset state is IDLE with a legal period and an empty buffer. -/
theorem resetStateMeetsTheMachineInvariant : Obligations.ResetStateMeetsTheMachineInvariant :=
  ⟨fun _ hc => inv_resetWith hc, inv_resetWith (by decide)⟩

/-- Settles O49: neither an accepted byte nor an event writes the configuration. -/
theorem configurationNeverChanges : Obligations.ConfigurationNeverChanges := by
  intro s t h
  have hevent : ∀ i : Instr, i.isFrame = false → ∀ u v, exec i u = .next v → u.cfg = s.cfg → v.cfg = s.cfg :=
    fun i hi u v h hu => (exec_event_inputs hi h).1.trans hu
  exact step_keeps (P := fun u => u.cfg = s.cfg) (fun _ _ _ h => h) (fun _ _ h => h)
    (fun u _ hu => (acceptByte_frame u).1.trans hu) (hevent .gateStep rfl) (hevent .tick rfl) (hevent .drainStep rfl)
    (hevent .hostDone rfl) (hevent .rst rfl) h rfl

/-- Settles O50: a host frame takes bytes from the channel alone, and an event touches no input. -/
theorem instructionsLeaveTheInputs : Obligations.InstructionsLeaveTheInputs := by
  intro i s t h
  cases hi : i.isFrame with
  | true =>
    obtain ⟨hport, hsched⟩ := exec_hostFrame_inputs hi h
    exact ⟨hport, hsched, fun hf => nomatch hf⟩
  | false =>
    obtain ⟨-, hport, hsched, hrxq⟩ := exec_event_inputs hi h
    exact ⟨hport, hsched, fun _ => hrxq⟩

/-- Settles O51, by whether the turn is the transmit side's. -/
theorem historyOnlyGrows : Obligations.HistoryOnlyGrows := by
  intro s t u ts hs hp h
  rw [step_cons hs] at h
  by_cases hx : u.agent = .transmitSide
  · rw [hx] at h
    rcases execDrainStep_hist h with hhist | ⟨hf, hhist⟩
    · exact ⟨[], by simpa using hhist, by simp⟩
    · exact ⟨_, hhist, fun _ _ => ⟨hx, hf, rfl⟩⟩
  · obtain ⟨es, hhist, hno⟩ := agentTurn_appendsWithoutTx hp hx h
    exact ⟨es, hhist, fun b hb => absurd hb (hno b)⟩

/-- Settles O43: `State.resetWith` gives each register its value of 10_state R39. -/
theorem resetStateHoldsTheResetValues : Obligations.ResetStateHoldsTheResetValues :=
  ⟨rfl, fun _ => ⟨rfl, rfl, rfl, rfl, rfl, rfl, rfl, rfl, rfl, rfl, rfl, rfl, rfl⟩⟩

/-- Settles O52: each output level is read off the state. -/
theorem outputLevels : Obligations.OutputLevels := fun _ => ⟨by simp [levels], rfl, rfl, rfl, rfl⟩

/-- Settles O53, on the numbers the codes stand for: the ranges of the three forms of `pstate` do not meet. -/
theorem stateEncodings : Obligations.StateEncodings :=
  ⟨rfl, rfl, rfl, rfl, rfl, PState.toNat_bits_divPay, PState.toNat_bits_longPay, Fsm.bits_injective,
    PState.bits_injective⟩

end Sys2Proof.Machine
end

section
/-! The obligation of the family 20_memory: which buffer accesses fault (20_memory R53, 60_exceptions R202). -/

namespace Sys2Proof.Machine

variable {s : State}

/-! ### The enabled events whose index lies outside the buffer -/

theorem execTick_outside (hc : configOk s.cfg = true) (hie : s.tmrIe = true) (hf : s.fsm = .sampling)
    (hi : s.cfg.bufferSize ≤ s.idx.toNat) : execTick s = .fault .bufferIndex := by
  rw [execTick, whenConfigured_ok hc, if_pos ((writeEnable_iff s).2 ⟨hie, hf⟩), takeSample_outside hi]

theorem execDrainStep_outside (hc : configOk s.cfg = true) (hf : s.fsm = .draining)
    (hi : s.cfg.bufferSize ≤ s.dptr.toNat) : execDrainStep s = .fault .bufferIndex := by
  rw [execDrainStep, whenConfigured_ok hc, if_pos hf, sendDrainByte_outside hi]

/-! ### The obligation -/

/-- Settles O45: an instruction that answers no next state is one of the two events, and each of them faults outside the
buffer. -/
theorem onlyAnIndexOutsideTheBufferFaults : Obligations.OnlyAnIndexOutsideTheBufferFaults := by
  intro i s hc
  constructor
  · intro hfault
    rcases exec_next_or_fault i hc with ⟨t, hnext⟩ | ⟨-, houtside⟩
    · exact nomatch hnext.symm.trans hfault
    · exact houtside
  · rintro (⟨rfl, hie, hf, hi⟩ | ⟨rfl, hf, hi⟩)
    · exact execTick_outside hc hie hf hi
    · exact execDrainStep_outside hc hf hi

end Sys2Proof.Machine
end

section
/-! The decoder and the encoder undo each other (30_encoding R71 to R75): one lemma per kind of row for what the decoder
reads, and the inversion of that; and the obligations O1 to O5 of the family 30_encoding. -/

namespace Sys2Proof

/-! ### What the decoder reads, by the row of the first byte -/

/-- The two formats of 30_encoding R71 share no first byte. -/
theorem shortRows_lookup_of_longRows {op : Byte} {mk : Payload → Instr} (h : longRows.lookup op = some mk) :
    shortRows.lookup op = none := by
  have hdisjoint : ∀ op : Byte, (longRows.lookup op).isSome = true → shortRows.lookup op = none := by decide
  exact hdisjoint op (by rw [h]; rfl)

theorem decode_shortRow {op : Byte} {i : Instr} (h : shortRows.lookup op = some i) (rest : List Byte) :
    decode (op :: rest) = .ok (i, rest) := by
  simp only [decode, h]

theorem decode_longFrame {op : Byte} {mk : Payload → Instr} (h : longRows.lookup op = some mk) (p : Payload)
    (rest : List Byte) : decode (longFrame op p ++ rest) = .ok (mk p, rest) := by
  simp only [longFrame, List.cons_append, List.nil_append, decode, shortRows_lookup_of_longRows h, h]

theorem decode_unrecognized {op : Byte} (h : (Instr.unrecognized op).wellFormed = true) (rest : List Byte) :
    decode (op :: rest) = .ok (.unrecognized op, rest) := by
  obtain ⟨hshort, hlong⟩ := lookup_unrecognized op h
  simp only [decode, Option.isNone_iff_eq_none.1 hshort, Option.isNone_iff_eq_none.1 hlong]

/-- Everything the decoder can read: a one-byte row, a five-byte row with its payload, or a byte of no row. -/
theorem decode_ok_cases {bs rest : List Byte} {i : Instr} (h : decode bs = .ok (i, rest)) :
    (∃ op, shortRows.lookup op = some i ∧ bs = op :: rest) ∨
    (∃ op mk p, longRows.lookup op = some mk ∧ i = mk p ∧ bs = longFrame op p ++ rest) ∨
    (∃ op, (Instr.unrecognized op).wellFormed = true ∧ i = .unrecognized op ∧ bs = op :: rest) := by
  cases bs with
  | nil => cases h
  | cons op bs =>
    simp only [decode] at h
    split at h
    · next hshort =>
      cases h
      exact .inl ⟨op, hshort, rfl⟩
    · next mk _ hlong =>
      split at h
      · next p0 p1 p2 p3 bs =>
        cases h
        exact .inr (.inl ⟨op, mk, ⟨p0, p1, p2, p3⟩, hlong, rfl, rfl⟩)
      · cases h
    · next hshort hlong =>
      cases h
      exact .inr (.inr ⟨op, wellFormed_of_no_row op hshort (by rw [hlong]; rfl), rfl, rfl⟩)

/-! ### The two round trips -/

theorem decode_encode {i : Instr} (rest : List Byte) (hwf : i.wellFormed = true) (hf : i.isFrame = true) :
    decode (encode i ++ rest) = .ok (i, rest) := by
  cases i with
  | reset => exact decode_shortRow rfl rest
  | arm => exact decode_shortRow rfl rest
  | query => exact decode_shortRow rfl rest
  | getMetadata => exact decode_shortRow rfl rest
  | setDivider x pad =>
    have hread := decode_longFrame (op := 0x80) rfl ⟨dividerByte x 0, dividerByte x 1, dividerByte x 2, pad⟩ rest
    rwa [assembleDivider_dividerByte] at hread
  | longC0 p => exact decode_longFrame rfl p rest
  | longC4 p => exact decode_longFrame rfl p rest
  | longC8 p => exact decode_longFrame rfl p rest
  | longCC p => exact decode_longFrame rfl p rest
  | longC1 p => exact decode_longFrame rfl p rest
  | longC5 p => exact decode_longFrame rfl p rest
  | longC9 p => exact decode_longFrame rfl p rest
  | longCD p => exact decode_longFrame rfl p rest
  | longC2 p => exact decode_longFrame rfl p rest
  | longC6 p => exact decode_longFrame rfl p rest
  | longCA p => exact decode_longFrame rfl p rest
  | longCE p => exact decode_longFrame rfl p rest
  | long81 p => exact decode_longFrame rfl p rest
  | long82 p => exact decode_longFrame rfl p rest
  | unrecognized op => exact decode_unrecognized hwf rest
  | gateStep => cases hf
  | tick => cases hf
  | drainStep => cases hf
  | hostDone => cases hf
  | rst => cases hf

theorem encode_decode {bs rest : List Byte} {i : Instr} (h : decode bs = .ok (i, rest)) :
    bs = encode i ++ rest ∧ i.wellFormed = true ∧ i.isFrame = true := by
  rcases decode_ok_cases h with ⟨op, hrow, rfl⟩ | ⟨op, mk, p, hrow, rfl, rfl⟩ | ⟨op, hwf, rfl, rfl⟩
  · obtain ⟨henc, hwf, hf⟩ := shortRows_lookup op i hrow
    exact ⟨by rw [henc]; rfl, hwf, hf⟩
  · obtain ⟨henc, hwf, hf⟩ := longRows_lookup hrow p
    exact ⟨by rw [henc], hwf, hf⟩
  · exact ⟨rfl, hwf, rfl⟩

/-! ### The frame length -/

/-- A frame is as long as its first byte tells (30_encoding R75). -/
theorem encode_length_of_decode {op : Byte} {bs rest : List Byte} {i : Instr} (h : decode (op :: bs) = .ok (i, rest)) :
    (encode i).length = frameLength op := by
  have hshort : ∀ op : Byte, (shortRows.lookup op).isSome = true → frameLength op = 1 := by decide
  have hlong : ∀ op : Byte, (longRows.lookup op).isSome = true → frameLength op = 5 := by decide
  rcases decode_ok_cases h with ⟨op', hrow, hbs⟩ | ⟨op', mk, p, hrow, rfl, hbs⟩ | ⟨op', hwf, rfl, hbs⟩ <;>
    obtain ⟨rfl, -⟩ := List.cons.inj hbs
  · rw [(shortRows_lookup op i hrow).1, hshort op (by rw [hrow]; rfl)]
    rfl
  · rw [(longRows_lookup hrow p).1, hlong op (by rw [hrow]; rfl)]
    rfl
  · rw [frameLength, classify_unrecognized op hwf]
    rfl

theorem encode_ne_nil {i : Instr} (hwf : i.wellFormed = true) (hf : i.isFrame = true) : encode i ≠ [] := by
  intro hnil
  have hdec := decode_encode [] hwf hf
  rw [hnil] at hdec
  cases hdec

theorem frameLength_eq_ite (op : Byte) :
    frameLength op = if classify op = .setDivider ∨ classify op = .long then 5 else 1 := by
  unfold frameLength
  cases classify op <;> rfl

theorem frameLength_eq_five_iff (op : Byte) :
    frameLength op = 5 ↔ classify op = .setDivider ∨ classify op = .long := by
  rw [frameLength_eq_ite]
  split <;> simp [*]

theorem frameLength_eq_one_iff (op : Byte) :
    frameLength op = 1 ↔ ¬ (classify op = .setDivider ∨ classify op = .long) := by
  rw [frameLength_eq_ite]
  split <;> simp [*]

/-! ### Table words (log 15) -/

theorem take_frameLength_cons (op : Byte) (bs : List Byte) :
    ∃ bs', (op :: bs).take (frameLength op) = op :: bs' ∧ (op :: bs').length ≤ frameLength op := by
  obtain ⟨k, hk⟩ : ∃ k, frameLength op = k + 1 := by
    rw [frameLength_eq_ite]
    split
    · exact ⟨4, rfl⟩
    · exact ⟨0, rfl⟩
  rw [hk]
  exact ⟨bs.take k, List.take_succ_cons, Nat.succ_le_succ (List.length_take_le k bs)⟩

/-- A table word's frame has a first byte and is no longer than that byte asks for. -/
theorem tableFrame_eq_cons (nbits w : Nat) :
    ∃ op bs, tableFrame nbits w = op :: bs ∧ (op :: bs).length ≤ frameLength op :=
  ⟨_, take_frameLength_cons (BitVec.ofNat 8 (w % 2 ^ nbits)) (bytesOfNat 4 (w % 2 ^ nbits / 256))⟩

/-- A table word's frame is the encoding of what the decoder reads from it, and nothing more. -/
theorem decodeTableWord_some {nbits w : Nat} {i : Instr} (h : decodeTableWord nbits w = some i) :
    tableFrame nbits w = encode i ∧ i.wellFormed = true ∧ i.isFrame = true := by
  unfold decodeTableWord at h
  split at h
  case h_2 => cases h
  case h_1 j rest hdec =>
    cases h
    obtain ⟨hbytes, hwf, hf⟩ := encode_decode hdec
    obtain ⟨op, bs, hframe, hle⟩ := tableFrame_eq_cons nbits w
    have hlen : (encode i).length + rest.length ≤ (encode i).length := by
      rw [← List.length_append, ← hbytes, hframe, encode_length_of_decode (hframe ▸ hdec)]
      exact hle
    obtain rfl : rest = [] := List.length_eq_zero_iff.1 (by omega)
    exact ⟨by rw [hbytes, List.append_nil], hwf, hf⟩

theorem decodeTableWord_of_tableFrame {nbits w : Nat} {i : Instr} (h : tableFrame nbits w = encode i)
    (hwf : i.wellFormed = true) (hf : i.isFrame = true) : decodeTableWord nbits w = some i := by
  have hdec := decode_encode [] hwf hf
  rw [List.append_nil, ← h] at hdec
  simp only [decodeTableWord, hdec]

/-! ### The opcode map (30_encoding R72) -/

/-- The source's decoder test for LONG. -/
theorem classify_eq_long_iff (op : Byte) : classify op = .long ↔
    op = 0x81 ∨ op = 0x82 ∨ (op.extractLsb' 4 4 = 0xC ∧ op.extractLsb' 0 2 ≠ 3) := by
  decide +revert

/-! ### The obligations -/

/-- Settles O2, by the row of the instruction. -/
theorem decodeEncodeRoundTrip : Obligations.DecodeEncodeRoundTrip := fun _ rest hwf hf => decode_encode rest hwf hf

/-- Settles O3, by the row of the first byte. -/
theorem encodeDecodeRoundTrip : Obligations.EncodeDecodeRoundTrip := fun _ _ _ h => encode_decode h

/-- Settles O1: each word lies in the channel as the frame of its row, so the round trip reads that row. -/
theorem decodesWrittenWords : Obligations.DecodesWrittenWords :=
  ⟨decodeTableWord_of_tableFrame rfl rfl rfl, decodeTableWord_of_tableFrame rfl rfl rfl,
    decodeTableWord_of_tableFrame rfl rfl rfl, decodeTableWord_of_tableFrame rfl rfl rfl,
    decodeTableWord_of_tableFrame rfl rfl rfl, decodeTableWord_of_tableFrame rfl rfl rfl,
    decodeTableWord_of_tableFrame rfl rfl rfl, rfl⟩

/-- Settles O4: each named class has one value, the LONG values are a bit pattern, and the class fixes the length. -/
theorem opcodeMap : Obligations.OpcodeMap := by
  intro op
  have hnamed : (classify op = .reset ↔ op = 0x00) ∧ (classify op = .arm ↔ op = 0x01) ∧
      (classify op = .query ↔ op = 0x02) ∧ (classify op = .getMetadata ↔ op = 0x04) ∧
      (classify op = .setDivider ↔ op = 0x80) := by
    decide +revert
  obtain ⟨hreset, harm, hquery, hmetadata, hdivider⟩ := hnamed
  exact ⟨hreset, harm, hquery, hmetadata, hdivider, classify_eq_long_iff op,
    frameLength_eq_five_iff op, frameLength_eq_one_iff op⟩

/-- Settles O5: each command is read from the bytes the one before it left. -/
theorem desynchronizedStreamDecodes : Obligations.DesynchronizedStreamDecodes :=
  ⟨decode_encode (i := .unrecognized 0x83) _ rfl rfl, decode_encode (i := .arm) _ rfl rfl,
    decode_encode (i := .reset) _ rfl rfl, decode_encode (i := .reset) _ rfl rfl,
    decode_encode (i := .reset) [] rfl rfl⟩

end Sys2Proof
end

section
/-! A host frame as a turn and as an instruction: a placed frame is the next instruction (log 15), a frame turn is its
byte turns (30_encoding R80), and LONG frames have no effect (30_encoding R74): the obligations O7, O8 and O16. -/

namespace Sys2Proof.Machine

/-! ### Consecutive byte turns -/

/-- ARM does not look at the turns to come. -/
theorem armCommand_sched (s : State) (ts : List Turn) :
    armCommand { s with sched := ts } = { armCommand s with sched := ts } := by
  unfold armCommand gateStart
  dsimp only
  split
  · split <;> rfl
  · rfl

theorem commandByte_sched (b : Byte) (s : State) (ts : List Turn) :
    commandByte b { s with sched := ts } = { commandByte b s with sched := ts } := by
  unfold commandByte
  cases classify b
  case arm => exact armCommand_sched s ts
  all_goals rfl

theorem dividerPayload_sched (n : Fin 4) (b : Byte) (s : State) (ts : List Turn) :
    dividerPayload n b { s with sched := ts } = { dividerPayload n b s with sched := ts } := by
  unfold dividerPayload
  split <;> rfl

theorem longPayload_sched (n : Fin 4) (s : State) (ts : List Turn) :
    longPayload n { s with sched := ts } = { longPayload n s with sched := ts } := by
  unfold longPayload
  split <;> rfl

/-- No accepted byte looks at the turns to come. -/
theorem rxByte_sched (b : Byte) (s : State) (ts : List Turn) :
    rxByte b { s with sched := ts } = { rxByte b s with sched := ts } := by
  simp only [rxByte, commandByte_sched, dividerPayload_sched, longPayload_sched]
  cases s.pstate <;> rfl

theorem acceptByte_sched (s : State) (ts : List Turn) :
    acceptByte { s with sched := ts } = { acceptByte s with sched := ts } := by
  rcases acceptByte_cases s with ⟨hq, h⟩ | ⟨hr, h⟩ | ⟨b, rest, hq, hr, h⟩ <;> rw [h]
  · simp only [acceptByte, hq]
  · exact acceptByte_waits hr
  · rw [acceptByte_ready (b := b) (rest := rest) (by exact hq) (by exact hr)]
    exact rxByte_sched b { s with rxq := rest } ts

/-- A byte turn leaves the port level and the turns to come, so writing them again changes nothing. -/
theorem acceptByte_inputs (s : State) :
    { acceptByte s with sched := s.sched, portIn := s.portIn } = acceptByte s := by
  obtain ⟨-, hport, hsched, -⟩ := acceptByte_frame s
  rw [← hport, ← hsched]

theorem steps_one (s : State) : steps 1 s = step s := by
  unfold steps
  cases step s <;> rfl

/-- One or more byte turns under one port value are as many chances to deliver a byte. -/
theorem steps_hostBytes (n : Nat) (p : Byte) (ts : List Turn) {s : State} (hc : configOk s.cfg = true) :
    steps (n + 1) { s with sched := List.replicate (n + 1) ⟨.hostByte, p⟩ ++ ts } =
      .next (acceptBytes (n + 1) { s with sched := ts, portIn := p }) := by
  induction n generalizing s with
  | zero => exact steps_succ (step_hostByte hc rfl)
  | succ n ih =>
    have hcfg : configOk (acceptByte { s with sched := ts, portIn := p }).cfg = true := by
      rw [(acceptByte_frame _).1]
      exact hc
    have hrest := ih hcfg
    rw [acceptByte_inputs { s with sched := ts, portIn := p }, ← acceptByte_sched] at hrest
    rw [steps_succ (step_hostByte (by exact hc) rfl)]
    exact hrest

/-! ### LONG frames -/

theorem sendFrame_longFrame {s : State} {op : Byte} (p : Payload) (hc : configOk s.cfg = true)
    (hr : rxReady s = true) (hp : s.pstate = .cmd) (hop : classify op = .long) :
    sendFrame (longFrame op p) s = .next s := by
  rw [longFrame, sendFrame_long hc hr, rxByte_cmd op (by exact hp), commandByte, hop]
  dsimp only
  rw [acceptBytes_longPayload (rest := s.rxq) (by exact hr) rfl rfl, ← hp]
  rfl

/-! ### The obligations -/

/-- Settles O7: the placed bytes are the frame of `i` alone, so the frame turn decodes `i` and leaves the channel as it
was. -/
theorem placedFrameRunsNext : Obligations.PlacedFrameRunsNext := by
  intro s nbits w i h
  obtain ⟨hbytes, hwf, hf⟩ := decodeTableWord_some h
  rw [State.withFetchWord, placeFrame, hbytes, step_cons rfl]
  exact hostFrameTurn_of_decode_ok (decode_encode s.rxq hwf hf)

/-- Settles O8: both sides give the same bytes as many chances. -/
theorem frameTurnIsItsByteTurns : Obligations.FrameTurnIsItsByteTurns := by
  intro s p ts hc hs
  obtain ⟨hframe, hnoFrame, -⟩ := stepRunsTheTurnsInstruction s p ts
  refine ⟨fun i rest hd => ?frame, fun e hd => ?noFrame⟩
  case frame =>
    obtain ⟨hbytes, hwf, hf⟩ := encode_decode hd
    obtain ⟨n, hn⟩ := Nat.exists_eq_add_one_of_ne_zero (mt List.length_eq_zero_iff.1 (encode_ne_nil hwf hf))
    rw [hframe i rest hs hd, exec_frame hf, sendFrame_of_configOk _ (by exact hc), hn, steps_hostBytes n p ts hc]
    dsimp only
    rw [← hbytes]
  case noFrame => rw [hnoFrame e hs hd, steps_one]

/-- Settles O16: the first byte of each of the fourteen is of the class LONG. -/
theorem longFramesChangeNothing : Obligations.LongFramesChangeNothing := by
  intro s p hc hr hp
  have hlong (op : Byte) := sendFrame_longFrame (op := op) p hc hr hp
  refine ⟨hlong 0xC0 ?_, hlong 0xC4 ?_, hlong 0xC8 ?_, hlong 0xCC ?_, hlong 0xC1 ?_, hlong 0xC5 ?_, hlong 0xC9 ?_,
    hlong 0xCD ?_, hlong 0xC2 ?_, hlong 0xC6 ?_, hlong 0xCA ?_, hlong 0xCE ?_, hlong 0x81 ?_, hlong 0x82 ?_⟩ <;> rfl

end Sys2Proof.Machine
end

section
/-! The command front end (40_command_front_end): a byte turn by parse state, the one-byte commands at a frame's start,
which agents touch the parse state, and the encoder's replies; and the obligations O9 to O14, O17 to O22 and O54. -/

namespace Sys2Proof.Machine

variable {s t : State} {p b : Byte} {ts : List Turn} {rest : List Byte}

/-! ### A byte turn -/

/-- While `rx_ready` = 0 a byte turn passes (00_scope R13; log 4). -/
theorem step_hostByte_waits (hc : configOk s.cfg = true) (hr : rxReady s = false)
    (hs : s.sched = ⟨.hostByte, p⟩ :: ts) : step s = .next { s with sched := ts, portIn := p } := by
  rw [step_hostByte hc hs, acceptByte_waits (by exact hr)]

/-- At a frame's start the byte turn is its command byte. -/
theorem step_hostByte_cmd (hc : configOk s.cfg = true) (hr : rxReady s = true) (hp : s.pstate = .cmd)
    (hs : s.sched = ⟨.hostByte, p⟩ :: ts) (hq : s.rxq = b :: rest) :
    step s = .next (commandByte b { s with sched := ts, portIn := p, rxq := rest }) := by
  rw [step_hostByte_ready hc hr hs hq, rxByte_cmd b (by exact hp)]

/-! ### Command bytes by class (40_command_front_end R101) -/

theorem commandByte_of_setDivider (h : classify b = .setDivider) : commandByte b s = setDividerCommand s := by
  rw [commandByte, h]

theorem commandByte_of_long (h : classify b = .long) : commandByte b s = longCommand s := by
  rw [commandByte, h]

theorem commandByte_of_unrecognized (h : classify b = .unrecognized) : commandByte b s = s := by
  rw [commandByte, h, unrecognizedCommand_eq]

theorem classify_of_mem_longOps : ∀ b ∈ longOps, classify b = .long := by decide

/-! ### Frames as instructions -/

/-- A frame that is not accepted waits whole (00_scope R13; log 6, log 7). -/
theorem exec_frame_waits {i : Instr} (hf : i.isFrame = true) (hc : configOk s.cfg = true) (hr : rxReady s = false) :
    exec i s = .next { s with rxq := encode i ++ s.rxq } := by
  rw [exec_frame hf, sendFrame_of_configOk _ hc, acceptBytes_waits (by exact hr)]

/-- A frame of one byte at a frame's start is its command byte. -/
theorem exec_short (i : Instr) (b : Byte) (hf : i.isFrame = true) (hb : encode i = [b]) (hc : configOk s.cfg = true)
    (hr : rxReady s = true) (hp : s.pstate = .cmd) : exec i s = .next (commandByte b s) := by
  rw [exec_frame hf, hb, sendFrame_short hc hr hp]

/-! ### ARM (40_command_front_end R103) -/

theorem armCommand_of_idle (hf : s.fsm = .idle) : armCommand s = gateStart s := if_pos hf

theorem armCommand_of_sampling (hf : s.fsm = .sampling) : armCommand s = s := if_neg (by simp [hf])

theorem gateStart_of_zero_budget (h : s.cfg.gateTimeout = 0) :
    gateStart s = capStart { s with gref := s.portIn, idx := 0 } := if_pos h

theorem gateStart_of_budget (h : s.cfg.gateTimeout ≠ 0) : gateStart s =
    { s with gref := s.portIn, idx := 0, gcnt := BitVec.ofNat 32 s.cfg.gateTimeout, fsm := .gating } := if_neg h

/-! ### The divider accumulator (40_command_front_end R105) -/

/-- Byte `n` lands in bits 8n to 8n + 7 of `pay`, and the other bits stay. -/
theorem getLsbD_setPayByte {n : Fin 4} (hn : n < 3) (b : Byte) (pay : Divider) {j : Nat} (hj : j < 24) :
    (setPayByte n b pay).getLsbD j =
      if 8 * n.val ≤ j ∧ j < 8 * n.val + 8 then b.getLsbD (j - 8 * n.val) else pay.getLsbD j := by
  obtain rfl | rfl | rfl : n = 0 ∨ n = 1 ∨ n = 2 := by omega
  all_goals
    simp only [setPayByte, BitVec.getLsbD_append, BitVec.getLsbD_extractLsb']
    grind

/-! ### The four events, case by case: the other direction of their `_cases` lemmas -/

section
variable (hc : configOk s.cfg = true)
include hc

theorem execGateStep_of_gating (hf : s.fsm = .gating) : execGateStep s = .next (gateIteration s) := by
  rw [execGateStep, whenConfigured_ok hc, if_pos hf]

theorem execGateStep_of_changed (hf : s.fsm = .gating) (hp : s.portIn ≠ s.gref) :
    execGateStep s = .next (capStart s) := by
  rw [execGateStep_of_gating hc hf, gateIteration, readPort_eq, if_pos ((changed_iff _ _).2 hp)]

theorem execGateStep_of_timeout (hf : s.fsm = .gating) (hp : s.portIn = s.gref) (hcnt : s.gcnt = 1) :
    execGateStep s = .next (capStart { s with gcnt := 0 }) := by
  rw [execGateStep_of_gating hc hf, gateIteration, readPort_eq, if_neg (by simp [changed_iff, hp]), if_pos hcnt]

theorem execGateStep_of_count (hf : s.fsm = .gating) (hp : s.portIn = s.gref) (hcnt : s.gcnt ≠ 1) :
    execGateStep s = .next { s with gcnt := s.gcnt - 1 } := by
  rw [execGateStep_of_gating hc hf, gateIteration, readPort_eq, if_neg (by simp [changed_iff, hp]), if_neg hcnt]

theorem execTick_of_enabled (hw : writeEnable s = true) : execTick s = takeSample s := by
  rw [execTick, whenConfigured_ok hc, if_pos hw]

theorem execTick_of_not_full (hw : writeEnable s = true) (hi : s.idx.toNat < s.cfg.bufferSize)
    (hfull : full s = false) :
    execTick s = .next { s with buf := s.buf.put s.idx.toNat s.portIn, idx := s.idx + 1 } := by
  rw [execTick_of_enabled hc hw, takeSample_inside hi, if_neg (by simp [hfull])]

theorem execTick_of_full (hw : writeEnable s = true) (hi : s.idx.toNat < s.cfg.bufferSize) (hfull : full s = true) :
    execTick s = .next (enterDrain { s with buf := s.buf.put s.idx.toNat s.portIn }) := by
  rw [execTick_of_enabled hc hw, takeSample_inside hi, if_pos hfull]

theorem execDrainStep_of_draining (hf : s.fsm = .draining) : execDrainStep s = sendDrainByte s := by
  rw [execDrainStep, whenConfigured_ok hc, if_pos hf]

theorem execDrainStep_of_not_last (hf : s.fsm = .draining) (hi : s.dptr.toNat < s.cfg.bufferSize)
    (hlast : lastDrain s = false) :
    execDrainStep s = .next { s with hist := s.hist ++ [.tx (bufByte s s.dptr.toNat)], dptr := s.dptr + 1 } := by
  rw [execDrainStep_of_draining hc hf, sendDrainByte_inside hi, if_neg (by simp [hlast])]
  rfl

theorem execDrainStep_of_last (hf : s.fsm = .draining) (hi : s.dptr.toNat < s.cfg.bufferSize)
    (hlast : lastDrain s = true) :
    execDrainStep s =
      .next { s with hist := s.hist ++ [.tx (bufByte s s.dptr.toNat)], dptr := 0, fsm := .idle } := by
  rw [execDrainStep_of_draining hc hf, sendDrainByte_inside hi, if_pos hlast]
  rfl

theorem execHostDone_of_configOk : execHostDone s = .next { s with hbusy := false } := by
  have h : execHostDone s = .next _ := whenConfigured_ok hc _
  exact h.trans (congrArg _ (execHostDone_cases h).2)

end

/-! ### The events do not look at the parse state (40_command_front_end R112) -/

/-- With another parse state an event moves as before and leaves that parse state. -/
theorem exec_event_parse {i : Instr} (hi : i = .gateStep ∨ i = .tick ∨ i = .drainStep ∨ i = .hostDone)
    (h : exec i s = .next t) (q : PState) (x : Divider) :
    exec i { s with pstate := q, pay := x } = .next { t with pstate := q, pay := x } := by
  rcases hi with rfl | rfl | rfl | rfl
  · obtain ⟨hc, ⟨hf, rfl⟩ | ⟨hf, hp, rfl⟩ | ⟨hf, hp, hcnt, rfl⟩ | ⟨hf, hp, hcnt, rfl⟩⟩ := execGateStep_cases h
    · exact execGateStep_of_not_gating hc hf
    · exact execGateStep_of_changed hc hf hp
    · exact execGateStep_of_timeout hc hf hp hcnt
    · exact execGateStep_of_count hc hf hp hcnt
  · obtain ⟨hc, ⟨hw, rfl⟩ | ⟨hw, hidx, hfull, rfl⟩ | ⟨hw, hidx, hfull, rfl⟩⟩ := execTick_cases h
    · exact execTick_of_not_enabled hc hw
    · exact execTick_of_not_full hc hw hidx hfull
    · exact execTick_of_full hc hw hidx hfull
  · obtain ⟨hc, ⟨hf, rfl⟩ | ⟨hf, hdptr, hlast, rfl⟩ | ⟨hf, hdptr, hlast, rfl⟩⟩ := execDrainStep_cases h
    · exact execDrainStep_of_not_draining hc hf
    · exact execDrainStep_of_not_last hc hf hdptr hlast
    · exact execDrainStep_of_last hc hf hdptr hlast
  · obtain ⟨hc, rfl⟩ := execHostDone_cases h
    exact execHostDone_of_configOk hc

/-- An event leaves the parse state: with the parse state written again it answers the same state. -/
theorem exec_event_keeps_parse {i : Instr} (hi : i = .gateStep ∨ i = .tick ∨ i = .drainStep ∨ i = .hostDone)
    (h : exec i s = .next t) : t.pstate = s.pstate ∧ t.pay = s.pay := by
  have ht : t = { t with pstate := s.pstate, pay := s.pay } :=
    Host.Outcome.next.inj (h.symm.trans (exec_event_parse hi h s.pstate s.pay))
  rw [ht]
  exact ⟨rfl, rfl⟩

/-- The agents other than the host and the platform move by one of the four events (40_command_front_end R113). -/
theorem agentTurn_keeps_parse {a : Agent} (hbyte : a ≠ .hostByte) (hframe : a ≠ .hostFrame) (hplatform : a ≠ .platform)
    (h : agentTurn a s = .next t) : t.pstate = s.pstate ∧ t.pay = s.pay := by
  cases a with
  | hostByte => exact absurd rfl hbyte
  | hostFrame => exact absurd rfl hframe
  | gateSequencer => exact exec_event_keeps_parse (i := .gateStep) (by simp) h
  | sampleTimer => exact exec_event_keeps_parse (i := .tick) (by simp) h
  | transmitSide => exact exec_event_keeps_parse (i := .drainStep) (by simp) h
  | protocolEncoder => exact exec_event_keeps_parse (i := .hostDone) (by simp) h
  | platform => exact absurd rfl hplatform

/-! ### The Protocol Encoder's four-byte fields (40_command_front_end R114) -/

theorem foldl_bigEndian (w : Word) : (bigEndian w).foldl (fun n b => 256 * n + b.toNat) 0 = w.toNat := by
  have hw := w.isLt
  simp only [bigEndian, List.foldl_cons, List.foldl_nil, BitVec.extractLsb'_toNat, Nat.shiftRight_eq_div_pow]
  omega

/-! ### The obligations -/

/-- Settles O9: `rx_ready` decides whether a byte turn takes the head of the channel. -/
theorem byteAcceptedExactlyWhenReady : Obligations.ByteAcceptedExactlyWhenReady := by
  refine ⟨rxReady_iff, fun s p b ts rest hc hs hq => ⟨fun hr => ?accepted, fun hr => step_hostByte_waits hc hr hs⟩⟩
  case accepted =>
    obtain ⟨-, -, hrxq, -⟩ := rxByte_frame b { s with sched := ts, portIn := p, rxq := rest }
    exact ⟨_, step_hostByte_ready hc hr hs hq, hrxq⟩

/-- Settles O10: each chance to deliver a byte finds `rx_ready` = 0. -/
theorem framesWaitUntilReady : Obligations.FramesWaitUntilReady := fun _ _ hc hr hf => exec_frame_waits hf hc hr

/-- Settles O13: ARM is its command byte, and its case is that of GateStart. -/
theorem armStartsTheGate : Obligations.ArmStartsTheGate := by
  intro s hc hr hp
  have harm : exec .arm s = .next (armCommand s) := exec_short .arm 0x01 rfl rfl hc hr hp
  rw [harm]
  refine ⟨fun hf hbudget => ?zeroBudget, fun hf hbudget => ?countdown, fun hf => ?sampling⟩
  case zeroBudget =>
    rw [armCommand_of_idle hf, gateStart_of_zero_budget hbudget]
    rfl
  case countdown => rw [armCommand_of_idle hf, gateStart_of_budget hbudget]
  case sampling => rw [armCommand_of_sampling hf]

/-- Settles O17, by the class of the command byte. -/
theorem longFormatCommandByte : Obligations.LongFormatCommandByte := by
  intro s p b ts rest hc hr hp hs hq
  rw [step_hostByte_cmd hc hr hp hs hq]
  refine ⟨fun hb => ?divider, fun hb => ?long⟩
  case divider =>
    rw [commandByte_of_setDivider (by rw [hb]; rfl)]
    rfl
  case long =>
    rw [commandByte_of_long (classify_of_mem_longOps b hb)]
    rfl

/-- Settles O18, by whether the byte is a divider byte or the pad byte. -/
theorem dividerPayloadByte : Obligations.DividerPayloadByte := by
  intro s p b ts rest n hc hr hp hs hq
  rw [step_hostByte hc hs]
  refine ⟨fun hn => ⟨setPayByte n b s.pay, fun j hj => getLsbD_setPayByte hn b s.pay hj, ?divider⟩, ?pad⟩
  case divider => rw [acceptByte_divPay (by exact hr) (by exact hp) (by exact hq) hn]
  case pad =>
    rintro rfl
    rw [acceptByte_pad (by exact hr) (by exact hp) (by exact hq)]
    rfl

/-- Settles O19, by whether the byte is the last of its frame. -/
theorem longPayloadByte : Obligations.LongPayloadByte := by
  intro s p b ts rest n hc hr hp hs hq
  rw [step_hostByte hc hs]
  refine ⟨fun hn => ?counted, ?last⟩
  case counted => rw [acceptByte_longPay (by exact hr) (by exact hp) (by exact hq) hn]
  case last =>
    rintro rfl
    rw [acceptByte_longLast (by exact hr) (by exact hp) (by exact hq)]

/-- Settles O20: each remaining agent's turn is one of the four events. -/
theorem parseStateOnlyByHostOrReset : Obligations.ParseStateOnlyByHostOrReset := by
  intro s t u ts hs h hbyte hframe hplatform
  rw [step_cons hs] at h
  exact agentTurn_keeps_parse (s := { s with sched := ts, portIn := u.port }) hbyte hframe hplatform h

/-- Settles O21: the condition and the effect of each case of an event read other registers only. -/
theorem stalledFrameBlocksNoOtherAgent : Obligations.StalledFrameBlocksNoOtherAgent :=
  fun _ _ _ q x hi h => exec_event_parse hi h q x

/-- Settles O11: RESET is its command byte, which answers the state it was given. -/
theorem resetCommandChangesNothing : Obligations.ResetCommandChangesNothing := fun _ hc hr hp =>
  exec_short .reset 0x00 rfl rfl hc hr hp

/-- Settles O12: a well-formed UNRECOGNIZED value is of that class. -/
theorem unrecognizedByteChangesNothing : Obligations.UnrecognizedByteChangesNothing := by
  intro s op hc hr hp hwf
  rw [exec_short _ op rfl rfl hc hr hp, commandByte_of_unrecognized (classify_unrecognized op hwf)]

/-- Settles O14: each of the two is its command byte. -/
theorem handoffCommandsSetBusy : Obligations.HandoffCommandsSetBusy := fun _ hc hr hp =>
  ⟨exec_short .query 0x02 rfl rfl hc hr hp, exec_short .getMetadata 0x04 rfl rfl hc hr hp⟩

/-- Settles O22: HOST_DONE looks at no capture state. -/
theorem hostDoneClearsBusy : Obligations.HostDoneClearsBusy := fun _ hc _ => execHostDone_of_configOk hc

/-- Settles O54: the buffer size and the rate are the two big-endian fields. -/
theorem encoderReplyLayout : Obligations.EncoderReplyLayout := by
  intro c m
  refine ⟨rfl, bigEndian (BitVec.ofNat 32 c.bufferSize), bigEndian m.maxRate, rfl, rfl, ?size, foldl_bigEndian _,
    ?reply⟩
  case size => rw [foldl_bigEndian, BitVec.toNat_ofNat]
  case reply => simp [encoderReply, metadataReply]

end Sys2Proof.Machine
end

section
/-! The trigger gate (41_trigger_gate): what each turn does while the gate runs, the bound on a run of the gate, and the
obligations O23 to O26. -/

namespace Sys2Proof.Machine

variable {s : State} {p r : Byte} {n : Nat} {u : Turn} {ts rest : List Turn}

/-! ### The countdown (41_trigger_gate R135) -/

/-- A countdown that is not over does not wrap. -/
theorem toNat_sub_one_of_pos {c : Word} (h : 1 ≤ c.toNat) : (c - 1).toNat = c.toNat - 1 :=
  BitVec.toNat_sub_of_le h

theorem ne_one_of_two_le_toNat {c : Word} (h : 2 ≤ c.toNat) : c ≠ 1 := by
  rintro rfl
  exact absurd h (by decide)

/-! ### A run of the gate

The registers and the inputs that decide how the gate goes on, and those of a capture that has begun. -/

/-- The gate runs against the snapshot `r`, with countdown `n` and the turns `ts` to come. -/
structure GateRuns (s : State) (r : Byte) (n : Nat) (ts : List Turn) : Prop where
  configOk : configOk s.cfg = true
  fsm : s.fsm = .gating
  gref : s.gref = r
  gcnt : s.gcnt.toNat = n
  sched : s.sched = ts

/-- The capture has begun: what CapStart leaves of the phase and the timer controls (42_ring_controller R150). -/
def CaptureStarted (s : State) : Prop := s.fsm = .sampling ∧ s.tmrRun = true ∧ s.tmrIe = true

theorem captureStarted_capStart (s : State) : CaptureStarted (capStart s) := ⟨rfl, rfl, rfl⟩

/-- The turn of an agent other than the gate sequencer and the platform leaves the gate as it is. -/
theorem GateRuns.step_of_other (h : GateRuns s r n (u :: ts)) (hgate : u.agent ≠ .gateSequencer)
    (hplatform : u.agent ≠ .platform) : ∃ t, step s = .next t ∧ GateRuns t r n ts := by
  obtain ⟨hc, hf, hgref, hgcnt, hs⟩ := h
  obtain ⟨t, hstep, hfsm, -, -, -, -, -, hcfg, -, hsched, hcnt, href⟩ :=
    step_sameCapture hc (by simp [hf]) hs hplatform (fun hg => absurd hg hgate)
      (fun _ => by simp [writeEnable, hf]) (fun _ => by simp [hf])
  exact ⟨t, hstep, by rwa [hcfg], hfsm.trans hf, href.trans hgref, by rw [hcnt, hgcnt], hsched⟩

/-- A gate turn is GATE_STEP on the state with that turn taken. -/
theorem GateRuns.step_eq (h : GateRuns s r n (⟨.gateSequencer, p⟩ :: ts)) :
    step s = execGateStep { s with sched := ts, portIn := p } := step_cons h.sched

/-- A gate turn that shows another value than the snapshot starts the capture. -/
theorem GateRuns.step_of_changed (h : GateRuns s r n (⟨.gateSequencer, p⟩ :: ts)) (hp : p ≠ r) :
    ∃ t, step s = .next t ∧ CaptureStarted t :=
  ⟨_, h.step_eq.trans (execGateStep_of_changed h.configOk h.fsm (by rwa [h.gref])), captureStarted_capStart _⟩

/-- A gate turn that shows the snapshot at countdown 1 starts the capture with the countdown at 0. -/
theorem GateRuns.step_of_timeout (h : GateRuns s r 1 (⟨.gateSequencer, r⟩ :: ts)) :
    ∃ t, step s = .next t ∧ CaptureStarted t ∧ t.gcnt = 0 :=
  ⟨_, h.step_eq.trans (execGateStep_of_timeout h.configOk h.fsm h.gref.symm (BitVec.eq_of_toNat_eq h.gcnt)),
    captureStarted_capStart _, rfl⟩

/-- A gate turn that shows the snapshot at a countdown above 1 counts down. -/
theorem GateRuns.step_of_count (h : GateRuns s r (n + 1) (⟨.gateSequencer, r⟩ :: ts)) (hn : 1 ≤ n) :
    ∃ t, step s = .next t ∧ GateRuns t r n ts := by
  have hgcnt := h.gcnt
  have hsub : (s.gcnt - 1).toNat = n := by
    rw [toNat_sub_one_of_pos (by omega), hgcnt, Nat.add_sub_cancel]
  have hone : s.gcnt ≠ 1 := ne_one_of_two_le_toNat (by omega)
  exact ⟨_, h.step_eq.trans (execGateStep_of_count h.configOk h.fsm h.gref.symm hone), h.configOk, h.fsm, h.gref, hsub,
    rfl⟩

/-- Where the countdown is at most the number of gate turns in `u :: ts`, the turn `u` starts the capture, or the gate runs
on with a countdown that is at most their number in `ts`. -/
theorem GateRuns.step_starts_or_runs (h : GateRuns s r n (u :: rest)) (hn : 1 ≤ n) (hplatform : u.agent ≠ .platform)
    (hlen : n ≤ (portsOf .gateSequencer (u :: ts)).length) :
    ∃ t, step s = .next t ∧
      (CaptureStarted t ∨ ∃ m, 1 ≤ m ∧ m ≤ (portsOf .gateSequencer ts).length ∧ GateRuns t r m rest) := by
  by_cases hgate : u.agent = .gateSequencer
  · obtain ⟨a, p⟩ := u
    obtain rfl : a = .gateSequencer := hgate
    rw [portsOf_cons_same, List.length_cons] at hlen
    by_cases hp : p = r
    · subst hp
      obtain ⟨m, rfl⟩ := Nat.exists_eq_add_of_le' hn
      rcases Nat.eq_zero_or_pos m with rfl | hm
      · obtain ⟨t, hstep, ht, -⟩ := h.step_of_timeout
        exact ⟨t, hstep, .inl ht⟩
      · obtain ⟨t, hstep, ht⟩ := h.step_of_count hm
        exact ⟨t, hstep, .inr ⟨m, hm, Nat.le_of_succ_le_succ hlen, ht⟩⟩
    · obtain ⟨t, hstep, ht⟩ := h.step_of_changed hp
      exact ⟨t, hstep, .inl ht⟩
  · rw [portsOf_cons_other hgate] at hlen
    obtain ⟨t, hstep, ht⟩ := h.step_of_other hgate hplatform
    exact ⟨t, hstep, .inr ⟨n, hn, hlen, ht⟩⟩

/-- A gate with at least as many gate turns to come as its countdown resolves on the way (41_trigger_gate R134). -/
theorem GateRuns.resolves (h : GateRuns s r n (ts ++ rest)) (hn : 1 ≤ n) (hreset : NoReset ts)
    (hlen : n ≤ (portsOf .gateSequencer ts).length) :
    ∃ k t, k ≤ ts.length ∧ steps k s = .next t ∧ CaptureStarted t := by
  induction ts generalizing s n with
  | nil => exact absurd (hn.trans hlen) (by simp)
  | cons u ts ih =>
    obtain ⟨hu, htail⟩ := List.forall_mem_cons.1 hreset
    obtain ⟨t, hstep, ht | ⟨m, hm, hmlen, ht⟩⟩ := h.step_starts_or_runs hn hu hlen
    · exact ⟨1, t, by simp, (steps_one s).trans hstep, ht⟩
    · obtain ⟨k, v, hk, hsteps, hv⟩ := ih ht hm htail hmlen
      exact ⟨k + 1, v, Nat.succ_le_succ hk, (steps_succ hstep).trans hsteps, hv⟩

/-- While every gate turn shows the snapshot the gate only counts them, as long as its countdown lasts. -/
theorem GateRuns.steps_of_unchanged {m : Nat} (hm : 1 ≤ m)
    (h : GateRuns s r ((portsOf .gateSequencer ts).length + m) (ts ++ rest)) (hreset : NoReset ts)
    (hports : ∀ q ∈ portsOf .gateSequencer ts, q = r) :
    ∃ t, steps ts.length s = .next t ∧ GateRuns t r m rest := by
  induction ts generalizing s with
  | nil => exact ⟨s, rfl, by simpa using h⟩
  | cons u ts ih =>
    obtain ⟨hu, htail⟩ := List.forall_mem_cons.1 hreset
    by_cases hgate : u.agent = .gateSequencer
    · obtain ⟨a, p⟩ := u
      obtain rfl : a = .gateSequencer := hgate
      rw [portsOf_cons_same] at h hports
      obtain ⟨rfl, hportsTail⟩ := List.forall_mem_cons.1 hports
      rw [List.length_cons, Nat.add_right_comm] at h
      obtain ⟨t, hstep, ht⟩ := h.step_of_count (by omega)
      rw [List.length_cons, steps_succ hstep]
      exact ih ht htail hportsTail
    · rw [portsOf_cons_other hgate] at h hports
      obtain ⟨t, hstep, ht⟩ := h.step_of_other hgate hu
      rw [List.length_cons, steps_succ hstep]
      exact ih ht htail hports

/-! ### The obligations -/

/-- Settles O23, by the case of the gate iteration. -/
theorem gateStepComparesThenCounts : Obligations.GateStepComparesThenCounts := fun s hc hf hpos =>
  ⟨execGateStep_of_changed hc hf, execGateStep_of_timeout hc hf, fun hp hcnt =>
    ⟨s.gcnt - 1, toNat_sub_one_of_pos hpos, execGateStep_of_count hc hf hp (ne_one_of_two_le_toNat hcnt)⟩⟩

/-- Settles O24: two bytes differ exactly when one of their bits does. -/
theorem comparatorIsAnyBitDiffers : Obligations.ComparatorIsAnyBitDiffers := by
  intro p r
  rw [changed_iff, ne_eq, BitVec.eq_of_getLsbD_eq_iff]
  push Not
  rfl

/-- Settles O25: the turns hold as many gate turns as the countdown counts. -/
theorem gateResolvesWithinItsBudget : Obligations.GateResolvesWithinItsBudget :=
  fun _ _ _ hc hf hpos hs hreset hlen => GateRuns.resolves ⟨hc, hf, rfl, rfl, hs⟩ hpos hreset hlen.ge

/-- Settles O26: the turns before the last gate turn count down to 1, and that turn to 0. -/
theorem gateTimesOutAtItsBudget : Obligations.GateTimesOutAtItsBudget := by
  rintro s ts rest p hc hf hs hreset rfl hports hlen
  have hrun : GateRuns s s.gref ((portsOf .gateSequencer ts).length + 1) _ := ⟨hc, hf, rfl, hlen.symm, hs⟩
  obtain ⟨t, hsteps, ht⟩ := hrun.steps_of_unchanged le_rfl hreset hports
  obtain ⟨u, hstep, ⟨hu, -⟩, hgcnt⟩ := ht.step_of_timeout
  exact ⟨t, u, hsteps, ht.fsm, BitVec.eq_of_toNat_eq ht.gcnt,
    (steps_add hsteps).trans ((steps_one t).trans hstep), hu, hgcnt⟩

end Sys2Proof.Machine
end

section
/-! The ring controller (42_ring_controller): what a TICK and a DRAIN_STEP do, who can write the buffer and who can end
SAMPLING, and the runs of a capture and of a drain under any interleaving; and the obligations O27 to O29 and O31 to
O35. -/

namespace Sys2Proof.Machine

variable {s t s₀ : State} {p : Byte} {ps : List Byte} {n : Nat} {u : Turn} {ts rest : List Turn}

/-! ### The last element (42_ring_controller R153, R156) -/

theorem full_eq_false_iff (s : State) : full s = false ↔ s.idx.toNat + 1 ≠ s.cfg.bufferSize := by
  rw [← Bool.not_eq_true, full_iff]

theorem lastDrain_eq_false_iff (s : State) : lastDrain s = false ↔ s.dptr.toNat + 1 ≠ s.cfg.bufferSize := by
  rw [← Bool.not_eq_true, lastDrain_iff]

/-! ### Who can write the buffer (42_ring_controller R151, 20_memory R58) -/

/-- A host frame leaves the buffer. -/
theorem acceptBytes_buf (n : Nat) (s : State) :
    (acceptBytes n s).buf = s.buf ∧ (acceptBytes n s).bufEpoch = s.bufEpoch := by
  refine acceptBytes_keeps (P := fun u => u.buf = s.buf ∧ u.bufEpoch = s.bufEpoch) ?_ n ⟨rfl, rfl⟩
  rintro u ⟨hbuf, hepoch⟩
  obtain ⟨-, -, -, ebuf, eepoch, -⟩ := acceptByte_frame u
  exact ⟨ebuf.trans hbuf, eepoch.trans hepoch⟩

theorem bufByte_congr (hbuf : t.buf = s.buf) (hepoch : t.bufEpoch = s.bufEpoch) (j : Nat) :
    bufByte t j = bufByte s j := by
  rw [bufByte, bufByte, hbuf, hepoch]

/-- A TICK writes at most the element at `idx`, and that one only when the write enable holds. -/
theorem bufByte_of_execTick (h : execTick s = .next t) {j : Nat} (hj : bufByte t j ≠ bufByte s j) :
    writeEnable s = true ∧ j = s.idx.toNat := by
  have hput : bufByte { s with buf := s.buf.put s.idx.toNat s.portIn } j ≠ bufByte s j → j = s.idx.toNat := by
    intro hne
    by_contra hother
    exact hne (by rw [bufByte_put, if_neg hother])
  obtain ⟨-, ⟨-, rfl⟩ | ⟨hw, -, -, rfl⟩ | ⟨hw, -, -, rfl⟩⟩ := execTick_cases h
  · exact absurd rfl hj
  · exact ⟨hw, hput hj⟩
  · exact ⟨hw, hput hj⟩

/-- Every instruction but TICK and device reset leaves every element of the buffer. -/
theorem bufByte_of_exec {i : Instr} (h : exec i s = .next t) (htick : i ≠ .tick) (hrst : i ≠ .rst) (j : Nat) :
    bufByte t j = bufByte s j := by
  rcases isFrame_or_event i with hf | rfl | rfl | rfl | rfl | rfl
  · rw [exec_frame hf] at h
    obtain ⟨-, rfl⟩ := sendFrame_next h
    obtain ⟨hbuf, hepoch⟩ := acceptBytes_buf (encode i).length { s with rxq := encode i ++ s.rxq }
    exact bufByte_congr hbuf hepoch j
  · obtain ⟨-, ⟨-, rfl⟩ | ⟨-, -, rfl⟩ | ⟨-, -, -, rfl⟩ | ⟨-, -, -, rfl⟩⟩ := execGateStep_cases h <;> rfl
  · exact absurd rfl htick
  · obtain ⟨-, ⟨-, rfl⟩ | ⟨-, -, -, rfl⟩ | ⟨-, -, -, rfl⟩⟩ := execDrainStep_cases h <;> rfl
  · obtain ⟨-, rfl⟩ := execHostDone_cases h
    rfl
  · exact absurd rfl hrst

/-! ### Who can end SAMPLING (42_ring_controller R158) -/

theorem configOk_of_step (h : step s = .next t) : configOk s.cfg = true := by
  by_contra hc
  rw [Bool.not_eq_true] at hc
  exact nomatch (step_of_badConfiguration hc).symm.trans h

/-- In SAMPLING every turn but the platform's and an enabled tick keeps SAMPLING. -/
theorem fsm_of_step_of_sampling (hf : s.fsm = .sampling) (hs : s.sched = u :: ts) (h : step s = .next t)
    (hplatform : u.agent ≠ .platform) (htick : u.agent = .sampleTimer → writeEnable s = false) :
    t.fsm = .sampling := by
  obtain ⟨v, hv, hfsm, -⟩ := step_sameCapture (configOk_of_step h) (by simp [hf]) hs hplatform (fun _ => by simp [hf])
    htick (fun _ => by simp [hf])
  obtain rfl : t = v := Host.Outcome.next.inj (h.symm.trans hv)
  exact hfsm.trans hf

/-- A TICK that ends SAMPLING is an enabled one that fills the buffer. -/
theorem execTick_ends_sampling (h : execTick s = .next t) (hf : s.fsm = .sampling) (ht : t.fsm ≠ .sampling) :
    s.tmrIe = true ∧ s.idx.toNat + 1 = s.cfg.bufferSize ∧ t.fsm = .draining := by
  obtain ⟨-, ⟨-, rfl⟩ | ⟨-, -, -, rfl⟩ | ⟨hw, -, hfull, rfl⟩⟩ := execTick_cases h
  · exact absurd hf ht
  · exact absurd hf ht
  · exact ⟨((writeEnable_iff s).1 hw).1, (full_iff s).1 hfull, rfl⟩

/-! ### The first elements of the buffer -/

/-- Elements 0 to `n - 1` of the buffer, in order. -/
def firstSamples (s : State) (n : Nat) : List Byte := (List.range n).map (bufByte s)

theorem firstSamples_congr (h : ∀ j < n, bufByte t j = bufByte s j) : firstSamples t n = firstSamples s n :=
  List.map_congr_left fun j hj => h j (List.mem_range.1 hj)

theorem firstSamples_succ (s : State) (n : Nat) : firstSamples s (n + 1) = firstSamples s n ++ [bufByte s n] := by
  simp [firstSamples, List.range_succ]

theorem getElem?_firstSamples {k : Nat} (hk : k < n) : (firstSamples s n)[k]? = some (bufByte s k) := by
  simp [firstSamples, hk]

/-- A write at index `n` puts its value after the first `n` elements (20_memory R58). -/
theorem firstSamples_put (s : State) (n : Nat) (v : Byte) :
    firstSamples { s with buf := s.buf.put n v } (n + 1) = firstSamples s n ++ [v] := by
  rw [firstSamples_succ, bufByte_put, if_pos rfl]
  congr 1
  refine firstSamples_congr fun j hj => ?_
  rw [bufByte_put, if_neg (by omega)]

/-! ### A run of turns in which one agent counts

The induction that a capture and a drain share: `Q ps ts s` says that the counted agent's turns so far showed the port
values `ps`, and that the turns `ts` are to come. -/

theorem steps_add_one {v : State} (h : steps n s = .next t) (hstep : step t = .next v) :
    steps (n + 1) s = .next v :=
  (steps_add h).trans ((steps_one t).trans hstep)

theorem steps_counting {a : Agent} {limit : Nat} {Q : List Byte → List Turn → State → Prop}
    (hown : ∀ {ps p ts s}, ps.length + 1 < limit → Q ps (⟨a, p⟩ :: ts) s →
      ∃ t, step s = .next t ∧ Q (ps ++ [p]) ts t)
    (hother : ∀ {ps u ts s}, u.agent ≠ a → u.agent ≠ .platform → Q ps (u :: ts) s → ∃ t, step s = .next t ∧ Q ps ts t)
    (h : Q ps (ts ++ rest) s) (hreset : NoReset ts) (hlen : ps.length + (portsOf a ts).length < limit) :
    ∃ t, steps ts.length s = .next t ∧ Q (ps ++ portsOf a ts) rest t := by
  induction ts generalizing s ps with
  | nil => exact ⟨s, rfl, by simpa using h⟩
  | cons u ts ih =>
    obtain ⟨hu, htail⟩ := List.forall_mem_cons.1 hreset
    rw [List.length_cons]
    by_cases ha : u.agent = a
    · obtain ⟨b, p⟩ := u
      obtain rfl : b = a := ha
      rw [portsOf_cons_same] at hlen ⊢
      rw [List.length_cons] at hlen
      obtain ⟨t, hstep, ht⟩ := hown (by omega) h
      rw [steps_succ hstep, List.append_cons]
      exact ih ht htail (by simp; omega)
    · rw [portsOf_cons_other ha] at hlen ⊢
      obtain ⟨t, hstep, ht⟩ := hother ha hu h
      rw [steps_succ hstep]
      exact ih ht htail hlen

/-! ### A run of a capture (42_ring_controller R159, first half) -/

/-- A capture under configuration `c` has taken the samples `ps` and has the turns `ts` to come. -/
structure CaptureRuns (c : Config) (ps : List Byte) (ts : List Turn) (s : State) : Prop where
  configOk : configOk c = true
  cfg : s.cfg = c
  fsm : s.fsm = .sampling
  tmrIe : s.tmrIe = true
  idx : s.idx.toNat = ps.length
  samples : firstSamples s ps.length = ps
  sched : s.sched = ts

/-- A drain under configuration `c` begins with the samples `ps` in the buffer: what EnterDrain leaves
(42_ring_controller R154). -/
structure DrainBegins (c : Config) (ps : List Byte) (ts : List Turn) (s : State) : Prop where
  cfg : s.cfg = c
  fsm : s.fsm = .draining
  tmrRun : s.tmrRun = false
  tmrIe : s.tmrIe = false
  idx : s.idx = 0
  dptr : s.dptr = 0
  samples : firstSamples s ps.length = ps
  sched : s.sched = ts

variable {c : Config}

/-- The turn of an agent other than the timer and the platform leaves the capture as it is. -/
theorem CaptureRuns.step_of_other (htimer : u.agent ≠ .sampleTimer) (hplatform : u.agent ≠ .platform)
    (h : CaptureRuns c ps (u :: ts) s) : ∃ t, step s = .next t ∧ CaptureRuns c ps ts t := by
  obtain ⟨hc, rfl, hf, hie, hidx, hsamples, hs⟩ := h
  obtain ⟨t, hstep, hfsm, hie', -, hidx', hbuf, hepoch, hcfg, -, hsched, -⟩ :=
    step_sameCapture hc (by simp [hf]) hs hplatform (fun _ => by simp [hf]) (fun ht => absurd ht htimer)
      (fun _ => by simp [hf])
  have hsame : firstSamples t ps.length = firstSamples s ps.length :=
    firstSamples_congr fun j _ => bufByte_congr hbuf hepoch j
  exact ⟨t, hstep, hc, hcfg, hfsm.trans hf, hie'.trans hie, by rw [hidx', hidx], hsame.trans hsamples, hsched⟩

/-- A timer turn in a capture is an enabled TICK. -/
theorem CaptureRuns.step_eq (h : CaptureRuns c ps (⟨.sampleTimer, p⟩ :: ts) s) :
    step s = execTick { s with sched := ts, portIn := p } ∧ writeEnable s = true :=
  ⟨step_cons h.sched, (writeEnable_iff s).2 ⟨h.tmrIe, h.fsm⟩⟩

/-- The sample a timer turn writes stands after those taken before. -/
theorem CaptureRuns.samples_of_tick (h : CaptureRuns c ps (⟨.sampleTimer, p⟩ :: ts) s) :
    firstSamples { s with buf := s.buf.put s.idx.toNat p } (ps ++ [p]).length = ps ++ [p] := by
  rw [h.idx, List.length_append, List.length_singleton, firstSamples_put, h.samples]

/-- A timer turn that leaves room in the buffer takes a sample. -/
theorem CaptureRuns.step_of_tick (hroom : ps.length + 1 < c.bufferSize)
    (h : CaptureRuns c ps (⟨.sampleTimer, p⟩ :: ts) s) :
    ∃ t, step s = .next t ∧ CaptureRuns c (ps ++ [p]) ts t := by
  obtain ⟨hstep, hw⟩ := h.step_eq
  have hsamples := h.samples_of_tick
  obtain ⟨hc, rfl, hf, hie, hidx, -, -⟩ := h
  have hlt : s.idx.toNat < s.cfg.bufferSize := by omega
  have hfull : full s = false := (full_eq_false_iff s).2 (by omega)
  have hnext : (s.idx + 1).toNat = (ps ++ [p]).length := by
    rw [toNat_add_one_of_lt_bufferSize hc hlt, hidx, List.length_append, List.length_singleton]
  exact ⟨_, hstep.trans (execTick_of_not_full hc hw hlt hfull), hc, rfl, hf, hie, hnext, hsamples, rfl⟩

/-- The timer turn that fills the buffer begins the drain. -/
theorem CaptureRuns.step_of_fullTick (hlast : ps.length + 1 = c.bufferSize)
    (h : CaptureRuns c ps (⟨.sampleTimer, p⟩ :: ts) s) :
    ∃ t, step s = .next t ∧ DrainBegins c (ps ++ [p]) ts t := by
  obtain ⟨hstep, hw⟩ := h.step_eq
  have hsamples := h.samples_of_tick
  obtain ⟨hc, rfl, -, -, hidx, -, -⟩ := h
  have hfull : full s = true := (full_iff s).2 (by omega)
  exact ⟨_, hstep.trans (execTick_of_full hc hw (by dsimp only; omega) hfull), rfl, rfl, rfl, rfl, rfl, rfl, hsamples,
    rfl⟩

/-- From the start of a capture the tick that makes BUFFERSIZE ticks begins the drain of their port values. -/
theorem drainBegins_of_capture (hc : configOk s.cfg = true) (hf : s.fsm = .sampling) (hie : s.tmrIe = true)
    (hidx : s.idx = 0) (hs : s.sched = ts ++ ⟨.sampleTimer, p⟩ :: rest) (hreset : NoReset ts)
    (hlen : (portsOf .sampleTimer ts).length + 1 = s.cfg.bufferSize) :
    ∃ t, steps (ts.length + 1) s = .next t ∧ DrainBegins s.cfg (portsOf .sampleTimer ts ++ [p]) rest t := by
  have hstart : CaptureRuns s.cfg [] (ts ++ ⟨.sampleTimer, p⟩ :: rest) s :=
    ⟨hc, rfl, hf, hie, by simp [hidx], rfl, hs⟩
  obtain ⟨t, hsteps, ht⟩ :=
    steps_counting CaptureRuns.step_of_tick CaptureRuns.step_of_other hstart hreset (by simp; omega)
  obtain ⟨v, hstep, hv⟩ := ht.step_of_fullTick hlen
  exact ⟨v, steps_add_one hsteps hstep, hv⟩

/-! ### A run of a drain (42_ring_controller R159, second half) -/

/-- The drain that began in `s₀` has sent `n` bytes and has the turns `ts` to come. -/
structure DrainRuns (s₀ : State) (n : Nat) (ts : List Turn) (s : State) : Prop where
  configOk : configOk s₀.cfg = true
  cfg : s.cfg = s₀.cfg
  fsm : s.fsm = .draining
  dptr : s.dptr.toNat = n
  elements : ∀ j, bufByte s j = bufByte s₀ j
  hist : s.hist = s₀.hist ++ (firstSamples s₀ n).map .tx
  sched : s.sched = ts

/-- While `rx_ready` = 0 the host's frame turn passes (00_scope R13; log 6, log 7). -/
theorem hostFrameTurn_waits (hc : configOk s.cfg = true) (hr : rxReady s = false) : hostFrameTurn s = .next s := by
  cases hd : decode s.rxq with
  | ok ir =>
    obtain ⟨hbytes, -, hframe⟩ := encode_decode hd
    rw [hostFrameTurn_of_decode_ok hd, exec_frame_waits hframe (by exact hc) (by exact hr)]
    dsimp only
    rw [← hbytes]
  | error e => rw [hostFrameTurn_of_decode_error hd, hostByteTurn, acceptByte_waits hr, whenConfigured_ok hc]

/-- In DRAINING the turn of an agent other than the transmit side and the platform at most completes a hand-off. -/
theorem agentTurn_of_draining {a : Agent} (hc : configOk s.cfg = true) (hf : s.fsm = .draining)
    (htransmit : a ≠ .transmitSide) (hplatform : a ≠ .platform) :
    ∃ b, agentTurn a s = .next { s with hbusy := b } := by
  have hr : rxReady s = false := by simp [rxReady, hf]
  cases a with
  | hostByte => exact ⟨s.hbusy, by rw [agentTurn, hostByteTurn, acceptByte_waits hr, whenConfigured_ok hc]⟩
  | hostFrame => exact ⟨s.hbusy, hostFrameTurn_waits hc hr⟩
  | gateSequencer => exact ⟨s.hbusy, execGateStep_of_not_gating hc (by simp [hf])⟩
  | sampleTimer => exact ⟨s.hbusy, execTick_of_not_enabled hc (by simp [writeEnable, hf])⟩
  | transmitSide => exact absurd rfl htransmit
  | protocolEncoder => exact ⟨false, execHostDone_of_configOk hc⟩
  | platform => exact absurd rfl hplatform

theorem DrainRuns.step_of_other (htransmit : u.agent ≠ .transmitSide) (hplatform : u.agent ≠ .platform)
    (h : DrainRuns s₀ n (u :: ts) s) : ∃ t, step s = .next t ∧ DrainRuns s₀ n ts t := by
  obtain ⟨hc, hcfg, hf, hdptr, helements, hhist, hs⟩ := h
  obtain ⟨b, hturn⟩ := agentTurn_of_draining (s := { s with sched := ts, portIn := u.port }) (by rwa [hcfg]) hf
    htransmit hplatform
  exact ⟨_, (step_cons hs).trans hturn, hc, hcfg, hf, hdptr, helements, hhist, rfl⟩

/-- The byte a transmit turn sends stands after those sent before. -/
theorem DrainRuns.hist_append (h : DrainRuns s₀ n ts s) :
    s.hist ++ [.tx (bufByte s s.dptr.toNat)] = s₀.hist ++ (firstSamples s₀ (n + 1)).map .tx := by
  rw [h.hist, h.dptr, h.elements, firstSamples_succ, List.map_append, List.append_assoc]
  rfl

/-- A transmit turn before the last sends an element. -/
theorem DrainRuns.step_of_drainStep (hmore : n + 1 < s₀.cfg.bufferSize)
    (h : DrainRuns s₀ n (⟨.transmitSide, p⟩ :: ts) s) : ∃ t, step s = .next t ∧ DrainRuns s₀ (n + 1) ts t := by
  have hsent := h.hist_append
  obtain ⟨hc, hcfg, hf, hdptr, helements, -, hs⟩ := h
  rw [← hcfg] at hc hmore
  have hlt : s.dptr.toNat < s.cfg.bufferSize := by omega
  have hlast : lastDrain s = false := (lastDrain_eq_false_iff s).2 (by omega)
  have hnext : (s.dptr + 1).toNat = n + 1 := by rw [toNat_add_one_of_lt_bufferSize hc hlt, hdptr]
  exact ⟨_, (step_cons hs).trans (execDrainStep_of_not_last hc hf hlt hlast), by rwa [← hcfg], hcfg, hf, hnext,
    helements, hsent, rfl⟩

/-- The last transmit turn sends the last element and returns to IDLE. -/
theorem DrainRuns.step_of_lastDrainStep (hlast : n + 1 = s₀.cfg.bufferSize)
    (h : DrainRuns s₀ n (⟨.transmitSide, p⟩ :: ts) s) :
    ∃ t, step s = .next t ∧ t.fsm = .idle ∧ t.dptr = 0 ∧ t.hist = s₀.hist ++ (firstSamples s₀ (n + 1)).map .tx := by
  have hsent := h.hist_append
  obtain ⟨hc, hcfg, hf, hdptr, -, -, hs⟩ := h
  rw [← hcfg] at hc hlast
  have hlast : lastDrain s = true := (lastDrain_iff s).2 (by omega)
  exact ⟨_, (step_cons hs).trans (execDrainStep_of_last hc hf (by dsimp only; omega) hlast), rfl, rfl, hsent⟩

/-- From the start of a drain the drain step that makes BUFFERSIZE drain steps returns to IDLE, with the whole buffer
sent. -/
theorem drain_sends_firstSamples (hc : configOk s.cfg = true) (hf : s.fsm = .draining) (hdptr : s.dptr = 0)
    (hs : s.sched = ts ++ ⟨.transmitSide, p⟩ :: rest) (hreset : NoReset ts)
    (hlen : (portsOf .transmitSide ts).length + 1 = s.cfg.bufferSize) :
    ∃ t, steps (ts.length + 1) s = .next t ∧ t.fsm = .idle ∧ t.dptr = 0 ∧
      t.hist = s.hist ++ (firstSamples s s.cfg.bufferSize).map .tx := by
  have hstart : DrainRuns s 0 (ts ++ ⟨.transmitSide, p⟩ :: rest) s :=
    ⟨hc, rfl, hf, by simp [hdptr], fun _ => rfl, by simp [firstSamples], hs⟩
  obtain ⟨t, hsteps, ht⟩ := steps_counting (ps := []) (Q := fun ps ts t => DrainRuns s ps.length ts t)
    (fun {ps p _ _} hmore h => by
      rw [List.length_append]
      exact h.step_of_drainStep hmore)
    DrainRuns.step_of_other hstart hreset (by simp; omega)
  obtain ⟨v, hstep, hv⟩ := ht.step_of_lastDrainStep hlen
  rw [hlen] at hv
  exact ⟨v, steps_add_one hsteps hstep, hv⟩

/-! ### The obligations -/

/-- Settles O33: each tick but the last puts its port value after the samples taken before, and the last one begins the
drain. -/
theorem captureFillsTheBufferInTickOrder : Obligations.CaptureFillsTheBufferInTickOrder := by
  intro s ts rest p hc hf hie hidx hs hreset hlen
  obtain ⟨t, hsteps, ht⟩ := drainBegins_of_capture hc hf hie hidx hs hreset hlen
  refine ⟨t, hsteps, ht.fsm, ht.idx, ht.dptr, ht.tmrRun, ht.tmrIe, ht.sched, ht.cfg, fun k hk => ?_⟩
  rw [← ht.samples, getElem?_firstSamples (by simpa [hlen] using hk)]

/-- Settles O34: each drain step but the last sends the element after those sent before, and the last one returns to
IDLE. -/
theorem drainSendsTheBufferInOrder : Obligations.DrainSendsTheBufferInOrder := by
  intro s ts rest p hc hf _ hdptr hs hreset hlen
  obtain ⟨t, hsteps, hidle, hdptr', hhist⟩ := drain_sends_firstSamples hc hf hdptr hs hreset hlen
  exact ⟨t, hsteps, hidle, hdptr', by rw [hhist, firstSamples, List.map_map]; rfl⟩

/-- Settles O35: the buffer the drain sends holds the port values of the capture's ticks. -/
theorem cycleStreamsTheSamplesInOrder : Obligations.CycleStreamsTheSamplesInOrder := by
  intro s ts ds rest p q hc hf hie hidx hs hreset hreset' hlen hlen'
  obtain ⟨t, hsteps, ht⟩ := drainBegins_of_capture hc hf hie hidx hs hreset hlen
  obtain ⟨v, hsteps', hidle, hdptr, hhist⟩ :=
    drain_sends_firstSamples (by rwa [ht.cfg]) ht.fsm ht.dptr ht.sched hreset' (by rwa [ht.cfg])
  have hsize : t.cfg.bufferSize = (portsOf .sampleTimer ts ++ [p]).length := by rw [ht.cfg, ← hlen]; simp
  rw [hsize, ht.samples] at hhist
  exact ⟨t, v, hsteps, ht.fsm, hsteps', hidle, hdptr, hhist⟩

/-- Settles O27, by whether the sample fills the buffer. -/
theorem tickStoresOneSample : Obligations.TickStoresOneSample := by
  intro s hc hf hie hidx
  have hw : writeEnable s = true := (writeEnable_iff s).2 ⟨hie, hf⟩
  refine ⟨s.buf.put s.idx.toNat s.portIn, fun j => bufByte_put s _ j _, fun hroom => ?_, fun hfull => ?_⟩
  · exact ⟨s.idx + 1, toNat_add_one_of_lt_bufferSize hc hidx,
      execTick_of_not_full hc hw hidx ((full_eq_false_iff s).2 hroom)⟩
  · exact execTick_of_full hc hw hidx ((full_iff s).2 hfull)

/-- Settles O28: without the interrupt enable there is no write enable. -/
theorem maskedTickIsDropped : Obligations.MaskedTickIsDropped := fun _ hc hie =>
  execTick_of_not_enabled hc (by simp [writeEnable, hie])

/-- Settles O29, by whether the byte is the last one. -/
theorem drainStepSendsOneByte : Obligations.DrainStepSendsOneByte := fun s hc hf hdptr =>
  ⟨fun hlast => execDrainStep_of_last hc hf hdptr ((lastDrain_iff s).2 hlast), fun hmore =>
    ⟨s.dptr + 1, toNat_add_one_of_lt_bufferSize hc hdptr,
      execDrainStep_of_not_last hc hf hdptr ((lastDrain_eq_false_iff s).2 hmore)⟩⟩

/-- Settles O31: TICK is the one instruction beside device reset that writes an element. -/
theorem onlyAnEnabledTickWritesTheBuffer : Obligations.OnlyAnEnabledTickWritesTheBuffer := by
  intro i s t j h hrst hj
  by_cases htick : i = .tick
  · subst htick
    obtain ⟨hw, hidx⟩ := bufByte_of_execTick h hj
    obtain ⟨hie, hf⟩ := (writeEnable_iff s).1 hw
    exact ⟨rfl, hie, hf, hidx⟩
  · exact absurd (bufByte_of_exec h htick hrst j) hj

/-- Settles O32: of the turns that are not the platform's only a tick can end SAMPLING, and only the full one. -/
theorem samplingEndsOnlyWhenFull : Obligations.SamplingEndsOnlyWhenFull := by
  intro s t u ts hf hs h ht
  by_cases hplatform : u.agent = .platform
  · exact .inl hplatform
  by_cases htimer : u.agent = .sampleTimer
  · rw [step_cons hs, htimer] at h
    exact .inr ⟨htimer, execTick_ends_sampling (s := { s with sched := ts, portIn := u.port }) h hf ht⟩
  · exact absurd (fsm_of_step_of_sampling hf hs h hplatform (fun e => absurd e htimer)) ht

end Sys2Proof.Machine
end

section
/-! The divider (44_divider): the bounds and the monotonicity of the two quotients, what a SET_DIVIDER frame does, and
which turns can write PERIOD; and the obligations O15 and O37 to O41. -/

namespace Sys2Proof.Machine

variable {s t : State} {c : Config}

/-! ### The rate (44_divider R181, R182) -/

theorem rate_zero (c : Config) : rate c 0 = c.refClkHz := Nat.div_one _

theorem rate_le_refClkHz (c : Config) (x : Nat) : rate c x ≤ c.refClkHz := Nat.div_le_self _ _

/-- The reference clock is at least 2^24, so no 24-bit divider brings the rate down to 0. -/
theorem rate_pos (hc : configOk c = true) (x : Divider) : 0 < rate c x.toNat := by
  obtain ⟨-, -, href, -, -, -⟩ := (configOk_iff c).1 hc
  have hx : x.toNat + 1 ≤ 2 ^ 24 := x.isLt
  exact Nat.div_pos (hx.trans href) (Nat.succ_pos _)

theorem rate_eq_refClkHz_iff (href : 0 < c.refClkHz) (x : Nat) : rate c x = c.refClkHz ↔ x = 0 := by
  refine ⟨fun h => ?_, fun h => by rw [h, rate_zero]⟩
  by_contra hx
  have hlt : rate c x < c.refClkHz := Nat.div_lt_self href (by omega)
  exact hlt.ne h

/-! ### Monotonicity and the exact case (44_divider R185, R186) -/

theorem rate_antitone (c : Config) {x y : Nat} (h : x ≤ y) : rate c y ≤ rate c x :=
  Nat.div_le_div_left (Nat.succ_le_succ h) (Nat.succ_pos x)

/-- A smaller rate gives a longer period as long as it is not 0. -/
theorem periodOf_mono {x y : Nat} (hrate : 0 < rate c y) (h : x ≤ y) : periodOf c x ≤ periodOf c y :=
  Nat.div_le_div_left (rate_antitone c h) hrate

theorem periodOf_of_dvd {x : Nat} (hclk : c.refClkHz = c.timerClkHz) (href : c.refClkHz ≠ 0)
    (hdvd : x + 1 ∣ c.refClkHz) : periodOf c x = x + 1 := by
  rw [periodOf, rate, ← hclk, Nat.div_div_self hdvd href]

/-! ### A SET_DIVIDER frame (40_command_front_end R104, R105; 44_divider R183) -/

/-- The command byte clears `pay`, three payload bytes fill it with the divider, and the pad byte applies it. -/
theorem exec_setDivider (x : Divider) (pad : Byte) (hc : configOk s.cfg = true) (hr : rxReady s = true)
    (hp : s.pstate = .cmd) : exec (.setDivider x pad) s = .next { divLoad x s with pay := x } := by
  rw [exec_frame rfl, encode, longFrame, sendFrame_long hc hr, rxByte_cmd _ (by exact hp),
    commandByte_of_setDivider (by decide), acceptBytes_dividerPayload (rest := s.rxq) (by exact hr) rfl rfl,
    setPayByte_dividerBytes, ← hp]
  rfl

/-! ### Who can write PERIOD (44_divider R187) -/

theorem rxByte_period (b : Byte) (hp : s.pstate ≠ .divPay 3) : (rxByte b s).period = s.period := by
  rcases rxByte_cases b s with ⟨-, -, h⟩ | ⟨-, -, h⟩ | ⟨-, -, h⟩ | ⟨-, -, h⟩ | ⟨-, -, h⟩ | ⟨-, -, h⟩ |
    ⟨n, -, -, h⟩ | ⟨hpad, -⟩ | ⟨n, -, -, h⟩ | ⟨-, h⟩
  case inr.inl => exact (congrArg State.period h).trans (armCommand_frame s).1
  case inr.inr.inr.inr.inr.inr.inr.inl => exact absurd hpad hp
  all_goals simp [h]

/-- A byte turn that changes PERIOD accepts a pad byte. -/
theorem acceptByte_writes_period (h : (acceptByte s).period ≠ s.period) :
    s.pstate = .divPay 3 ∧ rxReady s = true ∧ s.rxq ≠ [] := by
  rcases acceptByte_cases s with ⟨-, e⟩ | ⟨-, e⟩ | ⟨b, rest, hq, hr, e⟩ <;> rw [e] at h
  · exact absurd rfl h
  · exact absurd rfl h
  · refine ⟨?_, hr, by simp [hq]⟩
    by_contra hp
    exact h (rxByte_period b (s := { s with rxq := rest }) hp)

theorem hostByteTurn_writes_period (h : hostByteTurn s = .next t) (ht : t.period ≠ s.period) :
    s.pstate = .divPay 3 ∧ rxReady s = true ∧ s.rxq ≠ [] := by
  obtain ⟨-, h⟩ := whenConfigured_next h
  cases h
  exact acceptByte_writes_period ht

theorem execGateStep_period (h : execGateStep s = .next t) : t.period = s.period := by
  obtain ⟨-, ⟨-, rfl⟩ | ⟨-, -, rfl⟩ | ⟨-, -, -, rfl⟩ | ⟨-, -, -, rfl⟩⟩ := execGateStep_cases h <;> rfl

theorem execTick_period (h : execTick s = .next t) : t.period = s.period := by
  obtain ⟨-, ⟨-, rfl⟩ | ⟨-, -, -, rfl⟩ | ⟨-, -, -, rfl⟩⟩ := execTick_cases h <;> rfl

theorem execDrainStep_period (h : execDrainStep s = .next t) : t.period = s.period := by
  obtain ⟨-, ⟨-, rfl⟩ | ⟨-, -, -, rfl⟩ | ⟨-, -, -, rfl⟩⟩ := execDrainStep_cases h <;> rfl

theorem execHostDone_period (h : execHostDone s = .next t) : t.period = s.period := by
  obtain ⟨-, rfl⟩ := execHostDone_cases h
  rfl

/-- A turn that changes PERIOD, where the channel holds no whole frame for a frame turn, is the platform's or accepts a
pad byte. -/
theorem agentTurn_writes_period {a : Agent} (hd : a = .hostFrame → ∃ e, decode s.rxq = .error e)
    (h : agentTurn a s = .next t) (ht : t.period ≠ s.period) :
    a = .platform ∨
    ((a = .hostByte ∨ a = .hostFrame) ∧ s.pstate = .divPay 3 ∧ rxReady s = true ∧ s.rxq ≠ []) := by
  cases a with
  | hostByte => exact .inr ⟨.inl rfl, hostByteTurn_writes_period h ht⟩
  | hostFrame =>
    obtain ⟨e, he⟩ := hd rfl
    exact .inr ⟨.inr rfl, hostByteTurn_writes_period ((hostFrameTurn_of_decode_error he).symm.trans h) ht⟩
  | gateSequencer => exact absurd (execGateStep_period h) ht
  | sampleTimer => exact absurd (execTick_period h) ht
  | transmitSide => exact absurd (execDrainStep_period h) ht
  | protocolEncoder => exact absurd (execHostDone_period h) ht
  | platform => exact .inl rfl

/-! ### The obligations -/

/-- Settles O15: DivLoad writes the two-step quotient of the divider the payload bytes carry. -/
theorem setDividerLoadsThePeriod : Obligations.SetDividerLoadsThePeriod := fun _ x pad hc hr hp =>
  exec_setDivider x pad hc hr hp

/-- Settles O37: the clock constraints of 00_scope R6 keep both quotients positive and within their dividends. -/
theorem periodOfEveryDividerFits : Obligations.PeriodOfEveryDividerFits := by
  intro c x hc
  obtain ⟨-, -, href, -, htimer, -⟩ := (configOk_iff c).1 hc
  obtain ⟨hmin, hmax⟩ := periodOf_bounds hc x
  have hzero : x.toNat = 0 ↔ x = 0 := BitVec.toNat_inj (y := 0)
  exact ⟨rate_pos hc x, rate_le_refClkHz c _, (rate_eq_refClkHz_iff (by omega) _).trans hzero, hmin, hmax, htimer,
    toNat_periodOf hc x⟩

/-- Settles O38: the larger divider's rate is smaller but not 0. -/
theorem periodIsMonotone : Obligations.PeriodIsMonotone := fun c _ y hc h =>
  ⟨rate_antitone c h, periodOf_mono (rate_pos hc y) h⟩

/-- Settles O39: the rate at divider 0 is the whole reference clock, which bounds every rate. -/
theorem dividerZeroIsTheMaximumRate : Obligations.DividerZeroIsTheMaximumRate := fun c =>
  ⟨rate_zero c, periodOf_zero c, fun _ x => rate_antitone c (Nat.zero_le x.toNat)⟩

/-- Settles O40: dividing by a quotient of an exact division gives its divisor back; the worked case is arithmetic. -/
theorem periodIsExactWhenItDivides : Obligations.PeriodIsExactWhenItDivides := by
  refine ⟨fun c x hc hclk hdvd => ?exact, fun c href htimer => ?worked⟩
  case exact =>
    obtain ⟨-, -, href, -, -, -⟩ := (configOk_iff c).1 hc
    exact periodOf_of_dvd hclk (by omega) hdvd
  case worked =>
    have hrate : rate c (2 ^ 24 - 1) = 5 := by norm_num [rate, href]
    exact ⟨hrate, by rw [periodOf, hrate, htimer]⟩

/-- Settles O41, by the agent of the turn. -/
theorem periodWrittenOnlyByThePadByte : Obligations.PeriodWrittenOnlyByThePadByte := by
  intro s t u ts hs hd h ht
  rw [step_cons hs] at h
  exact agentTurn_writes_period (s := { s with sched := ts, portIn := u.port }) hd h ht

end Sys2Proof.Machine
end

section
/-! A tick and a host byte in SAMPLING (60_exceptions R205): no host byte looks at what a tick writes, and the two in
either order; and the obligation O36. -/

namespace Sys2Proof.Machine

variable {s : State}

/-! ### What a tick writes is nothing to a host byte (40_command_front_end R103, R113) -/

/-- ARM, which would clear `idx`, does nothing in SAMPLING. -/
theorem armCommand_sample (hf : s.fsm = .sampling) (m : Memory) (i : Word) :
    armCommand { s with buf := m, idx := i } = { armCommand s with buf := m, idx := i } := by
  rw [armCommand_of_sampling hf]
  exact armCommand_of_sampling hf

theorem commandByte_sample (b : Byte) (hf : s.fsm = .sampling) (m : Memory) (i : Word) :
    commandByte b { s with buf := m, idx := i } = { commandByte b s with buf := m, idx := i } := by
  unfold commandByte
  cases classify b
  case arm => exact armCommand_sample hf m i
  all_goals rfl

theorem dividerPayload_sample (n : Fin 4) (b : Byte) (s : State) (m : Memory) (i : Word) :
    dividerPayload n b { s with buf := m, idx := i } = { dividerPayload n b s with buf := m, idx := i } := by
  unfold dividerPayload
  split <;> rfl

theorem longPayload_sample (n : Fin 4) (s : State) (m : Memory) (i : Word) :
    longPayload n { s with buf := m, idx := i } = { longPayload n s with buf := m, idx := i } := by
  unfold longPayload
  split <;> rfl

/-- In SAMPLING no accepted byte looks at the buffer or at `idx`. -/
theorem rxByte_sample (b : Byte) (hf : s.fsm = .sampling) (m : Memory) (i : Word) :
    rxByte b { s with buf := m, idx := i } = { rxByte b s with buf := m, idx := i } := by
  simp only [rxByte, commandByte_sample b hf m i, dividerPayload_sample _ b s m i, longPayload_sample _ s m i]
  cases s.pstate <;> rfl

theorem acceptByte_sample (hf : s.fsm = .sampling) (m : Memory) (i : Word) :
    acceptByte { s with buf := m, idx := i } = { acceptByte s with buf := m, idx := i } := by
  rcases acceptByte_cases s with ⟨hq, h⟩ | ⟨hr, h⟩ | ⟨b, rest, hq, hr, h⟩ <;> rw [h]
  · simp only [acceptByte, hq]
  · exact acceptByte_waits hr
  · rw [acceptByte_ready (b := b) (rest := rest) (by exact hq) (by exact hr)]
    exact rxByte_sample b (s := { s with rxq := rest }) hf m i

/-! ### The two orders -/

section
variable {v : State} {p q : Byte} {ts : List Turn} (hc : configOk s.cfg = true) (hf : s.fsm = .sampling)
  (hie : s.tmrIe = true) (hidx : s.idx.toNat < s.cfg.bufferSize)
include hc hf hie hidx

theorem step_sampleTimer_cons : step { s with sched := ⟨.sampleTimer, p⟩ :: ts } = .next (
    if full s then enterDrain { s with sched := ts, portIn := p, buf := s.buf.put s.idx.toNat p }
    else { s with sched := ts, portIn := p, buf := s.buf.put s.idx.toNat p, idx := s.idx + 1 }) :=
  step_sampleTimer (s := { s with sched := ⟨.sampleTimer, p⟩ :: ts }) hc hf hie hidx rfl

/-- The byte first: the tick finds the capture as it was, and writes its sample into what the byte turn left. -/
theorem steps_byte_tick (hv : acceptByte { s with sched := ts, portIn := q } = v) :
    steps 2 { s with sched := ⟨.hostByte, q⟩ :: ⟨.sampleTimer, p⟩ :: ts } = .next (
      if full s then enterDrain { v with portIn := p, buf := s.buf.put s.idx.toNat p }
      else { v with portIn := p, buf := s.buf.put s.idx.toNat p, idx := s.idx + 1 }) := by
  have hbyte : step { s with sched := ⟨.hostByte, q⟩ :: ⟨.sampleTimer, p⟩ :: ts } =
      .next { v with sched := ⟨.sampleTimer, p⟩ :: ts } := by
    rw [step_hostByte (by exact hc) rfl, ← hv, ← acceptByte_sched]
  obtain ⟨hfsm, htmrIe, -, hidx', hbuf, -, hcfg, -, hsched, -⟩ : SameCapture { s with sched := ts, portIn := q } v :=
    hv ▸ acceptByte_sameCapture (by simp [hf])
  have htick := step_sampleTimer_cons (s := v) (p := p) (ts := ts) (by rwa [hcfg]) (hfsm.trans hf) (htmrIe.trans hie)
    (by rwa [hidx', hcfg])
  have hfull : full v = full s := by simp only [full, hidx', hcfg]
  rw [steps_succ hbyte, steps_one, htick, hfull]
  simp only [hidx', hbuf, hsched]

/-- The tick first, before the last sample: the byte is accepted, or waits, as it would without the tick. -/
theorem steps_tick_byte_of_not_full (hv : acceptByte { s with sched := ts, portIn := q } = v) (hroom : full s = false) :
    steps 2 { s with sched := ⟨.sampleTimer, p⟩ :: ⟨.hostByte, q⟩ :: ts } =
      .next { v with buf := s.buf.put s.idx.toNat p, idx := s.idx + 1 } := by
  have htick : step { s with sched := ⟨.sampleTimer, p⟩ :: ⟨.hostByte, q⟩ :: ts } = .next { s with
      sched := ⟨.hostByte, q⟩ :: ts, portIn := p, buf := s.buf.put s.idx.toNat p, idx := s.idx + 1 } :=
    (step_sampleTimer_cons hc hf hie hidx).trans (congrArg _ (if_neg (Bool.eq_false_iff.1 hroom)))
  rw [steps_succ htick, steps_one, step_hostByte (by exact hc) rfl, ← hv]
  exact congrArg _ (acceptByte_sample (s := { s with sched := ts, portIn := q }) hf _ _)

/-- The full tick first: the drain has begun, and the byte waits (40_command_front_end R100). -/
theorem steps_tick_byte_of_full (hfull : full s = true) :
    steps 2 { s with sched := ⟨.sampleTimer, p⟩ :: ⟨.hostByte, q⟩ :: ts } = .next
      (enterDrain { s with sched := ts, portIn := q, buf := s.buf.put s.idx.toNat p }) := by
  have htick : step { s with sched := ⟨.sampleTimer, p⟩ :: ⟨.hostByte, q⟩ :: ts } = .next (enterDrain { s with
      sched := ⟨.hostByte, q⟩ :: ts, portIn := p, buf := s.buf.put s.idx.toNat p }) :=
    (step_sampleTimer_cons hc hf hie hidx).trans (congrArg _ (if_pos hfull))
  rw [steps_succ htick, steps_one, step_hostByte_waits (by exact hc) rfl rfl]
  rfl

end

/-! ### The obligation -/

/-- Settles O36, by whether the tick is the full one. -/
theorem tickAndByteCommute : Obligations.TickAndByteCommute := by
  intro s p q ts hc hf hie hidx
  have hbyteFirst := steps_byte_tick (p := p) (q := q) (ts := ts) hc hf hie hidx rfl
  cases hfull : full s with
  | true =>
    rw [if_pos hfull] at hbyteFirst
    exact ⟨_, _, steps_tick_byte_of_full hc hf hie hidx hfull, hbyteFirst, rfl,
      fun hroom => absurd ((full_iff s).1 hfull) hroom⟩
  | false =>
    rw [if_neg (Bool.eq_false_iff.1 hfull)] at hbyteFirst
    exact ⟨_, _, steps_tick_byte_of_not_full hc hf hie hidx rfl hfull, hbyteFirst, rfl, fun _ => rfl⟩

end Sys2Proof.Machine
end

section
/-! Device reset (70_reset_and_hazards R230, R231): what RST answers, and what is read off the state it leaves; and the
obligation of the family 70_reset_and_hazards. -/

namespace Sys2Proof.Machine

/-! ### RST on a legal configuration -/

/-- RST is enabled in every state: the other direction of `execRst_cases`. -/
theorem exec_rst_of_configOk {s : State} (hc : configOk s.cfg = true) : exec .rst s = .next (deviceReset s) :=
  whenConfigured_ok hc _

/-! ### What is read off the state after a device reset -/

/-- The entry state is ready for a command byte (70_reset_and_hazards R231). -/
theorem rxReady_deviceReset (s : State) : rxReady (deviceReset s) = true :=
  (rxReady_iff _).2 ⟨.inl (deviceReset_fsm s), deviceReset_hbusy s⟩

/-- A buffer in which nothing is written reads as the free values of its reset (10_state R34). -/
theorem bufByte_of_buf_nil {s : State} (h : s.buf = []) (j : Nat) :
    bufByte s j = Config.freeBufferByte s.bufEpoch j := by
  rw [bufByte, h, Memory.get?, Option.getD_none]

theorem bufByte_deviceReset (s : State) (j : Nat) :
    bufByte (deviceReset s) j = Config.freeBufferByte (s.bufEpoch + 1) j := by
  rw [bufByte_of_buf_nil (deviceReset_buf s), deviceReset_bufEpoch]

/-! ### The obligation -/

/-- Settles O42: RST answers `deviceReset s`, whose registers are those of `Laws/State`. -/
theorem deviceResetSetsEveryRegister : Obligations.DeviceResetSetsEveryRegister := by
  intro s hc
  refine ⟨deviceReset s, exec_rst_of_configOk hc, ?_⟩
  simp [rxReady_deviceReset, bufByte_deviceReset]

end Sys2Proof.Machine
end
